-- ==== Sys2Proof/Word.lean ====
section
/-! DEFINITION. The data types of 00_scope.md rule R8 and the two interface words, each typed by its fixed width
(rule R7: every value by its width, none a resizable list). -/

namespace Sys2Proof

/-- A Bit, a value in 0 and 1 (00_scope.md R8): true is 1. XOR is `xor`, AND is `&&` (R13). -/
abbrev Bit := Bool

/-- A Nibble on its bus `nib[3:0]` (00_scope.md R8, R9). -/
abbrev Nibble := BitVec 4

/-- A Byte on its bus `b[7:0]` (00_scope.md R8, R10). -/
abbrev Byte := BitVec 8

/-- A Codeword, or any received 7-bit block, on its bus `cw[6:0]` (00_scope.md R8, R11). -/
abbrev Codeword := BitVec 7

/-- A Syndrome on its bus `syn[2:0]`; its unsigned value is the errorPosition (00_scope.md R8, R12). -/
abbrev Syndrome := BitVec 3

/-- The request word `req[9:0]` (30_encoding.md R35). -/
abbrev Request := BitVec 10

/-- The response word `rsp[14:0]` (30_encoding.md R37). -/
abbrev Response := BitVec 15

/-- A binary matrix of r rows and c columns (00_scope.md R14), `M[i][j]` with both indexes from 0 (10_state.md R16). -/
abbrev BitMatrix (r c : Nat) := Vector (Vector Bit c) r

/-- The decoder's three outputs (41_decoder.md R47; three and not two: 90_conflicts.md C6). -/
structure DecodedBlock where
  correctedBlock : Codeword
  errorPosition  : Syndrome
  dataBits       : Nibble
  deriving DecidableEq, Repr

end Sys2Proof
end

