-- ==== Sys2Proof/Config.lean ====
section
/-! DEFINITION. What is fixed for the machine: the widths of 00_scope.md rule R7, the type of the two constant matrices,
and the levels the model gives to host-driven inputs before the host drives them (log 4). The hardware has no option,
extension, mode or configuration (R2), and the spec leaves no value open, so there is no free value here. -/

namespace Sys2Proof.Config

/-! The parameter table of 00_scope.md R7. `Sys2Proof.Laws.words_have_the_parameter_widths` ties the types to it. -/

/-- Data bits per block. -/
abbrev nibbleW : Nat := 4
/-- Bits per block. -/
abbrev codewordW : Nat := 7
/-- Bits of a syndrome. -/
abbrev syndromeW : Nat := 3
/-- Bits of a byte. -/
abbrev byteW : Nat := 8
/-- Bits of a request word. -/
abbrev reqW : Nat := 10
/-- Bits of a response word. -/
abbrev rspW : Nat := 15

/-- The source's CodeTables: the pair of matrices that is the core's whole state (10_state.md R16, R17, R23). Their
values are `Sys2Proof.Machine.codeTables`. -/
structure CodeTables where
  /-- Generator matrix: row i belongs to codeword position i+1, column j to data bit d(j+1) (R16). -/
  G : BitMatrix 7 4
  /-- Parity-check matrix: row k gives syndrome component sk, column j belongs to position j+1 (R17). -/
  H : BitMatrix 3 7
  deriving DecidableEq, Repr

/-- The level of the request port before the host first presents a request. DESIGN CHOICE (log 4), unsafe:
70_reset_and_hazards.md R67 leaves it to the host. -/
def resetRequest : Request := 0#10

end Sys2Proof.Config
end

