-- ==== Sys2Proof/Machine/Operands.lean ====
section
/-! DEFINITION. How each value's bit sequence is carried on its bus, first element at the most significant bit
(00_scope.md rules R9 to R12; 20_memory.md R26), and arithmetic over GF(2) on sequences (R13, R14). -/

namespace Sys2Proof.Machine

/-- The Nibble's sequence (n1, n2, n3, n4), which is (d1, d2, d3, d4): n1 at `nib[3]` (00_scope.md R9). -/
def nibbleSeq (n : Nibble) : Vector Bit 4 := #v[n[3], n[2], n[1], n[0]]

/-- The Nibble of the sequence (n1, n2, n3, n4) (00_scope.md R9). -/
def nibbleOfSeq (v : Vector Bit 4) : Nibble :=
  BitVec.ofBool v[0] ++ BitVec.ofBool v[1] ++ BitVec.ofBool v[2] ++ BitVec.ofBool v[3]

/-- The Byte's sequence (b1, ..., b8): bi at `b[8-i]` (00_scope.md R10). -/
def byteSeq (b : Byte) : Vector Bit 8 := #v[b[7], b[6], b[5], b[4], b[3], b[2], b[1], b[0]]

/-- `pos(cw, p)`, the bit at the 1-based codeword position p, which is `cw[7-p]`, for p in 1..7 (00_scope.md R11). -/
def pos (cw : Codeword) (p : Nat) : Bit := cw.getLsbD (7 - p)

/-- The Codeword's sequence (c1, ..., c7) (00_scope.md R11). -/
def codewordSeq (cw : Codeword) : Vector Bit 7 :=
  #v[pos cw 1, pos cw 2, pos cw 3, pos cw 4, pos cw 5, pos cw 6, pos cw 7]

/-- The Codeword of the sequence (c1, ..., c7): position 1 is the most significant bit (00_scope.md R11). -/
def codewordOfSeq (v : Vector Bit 7) : Codeword :=
  BitVec.ofBool v[0] ++ BitVec.ofBool v[1] ++ BitVec.ofBool v[2] ++ BitVec.ofBool v[3] ++
    BitVec.ofBool v[4] ++ BitVec.ofBool v[5] ++ BitVec.ofBool v[6]

/-- The Syndrome of its components s0, s1, s2: `syn[k] = sk`, so s0 is the least significant bit (00_scope.md R12). -/
def syndromeOfSeq (s : Vector Bit 3) : Syndrome :=
  BitVec.ofBool s[2] ++ BitVec.ofBool s[1] ++ BitVec.ofBool s[0]

/-- `parity`: the XOR of all bits (00_scope.md R13). -/
def parity (bits : List Bit) : Bit := bits.foldr xor false

/-- One entry of a GF(2) product: the parity of the row ANDed with the vector (00_scope.md R14). -/
def gf2Dot {c : Nat} (row v : Vector Bit c) : Bit := parity (List.zipWith and row.toList v.toList)

/-- The GF(2) matrix-vector product M · v (00_scope.md R14). -/
def gf2Mul {r c : Nat} (M : BitMatrix r c) (v : Vector Bit c) : Vector Bit r :=
  Vector.ofFn fun i => gf2Dot M[i] v

/-- The number of 1 bits of a block, its Hamming weight (40_encoder.md R46(d)). -/
def weight (cw : Codeword) : Nat := (codewordSeq cw).toList.countP id

end Sys2Proof.Machine
end

