-- ==== Sys2Proof/Machine/Units.lean ====
section
/-! DEFINITION. The three combinational functional units, ENC, DEC and PACK (30_encoding.md rule R34), as functions of
their inputs and of the matrices. Every operation and every datapath output is one of these. -/

namespace Sys2Proof.Machine

/-- ENC: codeword position p is the parity of G row p-1 ANDed with the data (40_encoder.md R43). -/
def encUnit (G : BitMatrix 7 4) (n : Nibble) : Codeword := codewordOfSeq (gf2Mul G (nibbleSeq n))

/-- The syndrome step of DEC: component sk is the product of the received block with H row k (41_decoder.md R47, R48). -/
def syndrome (H : BitMatrix 3 7) (r : Codeword) : Syndrome := syndromeOfSeq (gf2Mul H (codewordSeq r))

/-- The error-position lookup table: entry e flips position e, entry 0 flips none (41_decoder.md R49). Entry 7 is a
correction like the others (R52). -/
def flipTable : Vector Codeword 8 :=
  #v[0b0000000#7, 0b1000000#7, 0b0100000#7, 0b0010000#7, 0b0001000#7, 0b0000100#7, 0b0000010#7, 0b0000001#7]

/-- `flip_mask(e)`: the entry of the table for errorPosition e (41_decoder.md R49). -/
def flipMask (e : Syndrome) : Codeword := flipTable[e.toNat]'(e.isLt)

/-- dataBits: positions 3, 5, 6 and 7 of the corrected block, most significant first (41_decoder.md R50). -/
def extractData (cb : Codeword) : Nibble := nibbleOfSeq #v[pos cb 3, pos cb 5, pos cb 6, pos cb 7]

/-- DEC: syndrome, flip of the position it names, data extraction (41_decoder.md R47). -/
def decUnit (H : BitMatrix 3 7) (r : Codeword) : DecodedBlock :=
  let e := syndrome H r
  let cb := r ^^^ flipMask e
  { correctedBlock := cb, errorPosition := e, dataBits := extractData cb }

/-- PACK, split: the high nibble `b[7:4]` of a byte (42_packer.md R53, 20_memory.md R27). -/
def splitHigh (b : Byte) : Nibble := b.extractLsb' 4 4

/-- PACK, split: the low nibble `b[3:0]` of a byte (42_packer.md R53, 20_memory.md R27). -/
def splitLow (b : Byte) : Nibble := b.extractLsb' 0 4

/-- PACK, join: `{h, l}` (42_packer.md R54). -/
def joinNibbles (h l : Nibble) : Byte := h ++ l

end Sys2Proof.Machine
end

