-- ==== Sys2Proof/Machine/Ports.lean ====
section
/-! DEFINITION. The datapath ports of 30_encoding.md rule R34: the levels the host drives on the units' inputs, and the
levels the units put on their outputs. -/

namespace Sys2Proof.Machine

/-- The input ports of the three units (30_encoding.md R34). They may be driven at the same time (R34, R69). -/
structure DatapathIn where
  /-- `enc_d[3:0]` -/
  encD : Nibble
  /-- `dec_r[6:0]` -/
  decR : Codeword
  /-- `pk_b[7:0]` -/
  pkB  : Byte
  /-- `pj_hi[3:0]` -/
  pjHi : Nibble
  /-- `pj_lo[3:0]` -/
  pjLo : Nibble
  deriving DecidableEq, Repr

/-- The output ports of the three units (30_encoding.md R34). -/
structure DatapathOut where
  /-- `enc_c[6:0]` -/
  encC : Codeword
  /-- `dec_c[6:0]` -/
  decC : Codeword
  /-- `dec_s[2:0]` -/
  decS : Syndrome
  /-- `dec_d[3:0]` -/
  decD : Nibble
  /-- `pk_hi[3:0]` -/
  pkHi : Nibble
  /-- `pk_lo[3:0]` -/
  pkLo : Nibble
  /-- `pj_b[7:0]` -/
  pjB  : Byte
  deriving DecidableEq, Repr

/-- The levels of the datapath inputs before the host first drives them. DESIGN CHOICE (log 4), unsafe:
70_reset_and_hazards.md R67 leaves them to the host. -/
def resetDatapathIn : DatapathIn := { encD := 0#4, decR := 0#7, pkB := 0#8, pjHi := 0#4, pjLo := 0#4 }

/-- The datapath: every output a combinational function of its own unit's inputs (30_encoding.md R34,
70_reset_and_hazards.md R70). -/
def datapath (t : Config.CodeTables) (p : DatapathIn) : DatapathOut where
  encC := encUnit t.G p.encD
  decC := (decUnit t.H p.decR).correctedBlock
  decS := (decUnit t.H p.decR).errorPosition
  decD := (decUnit t.H p.decR).dataBits
  pkHi := splitHigh p.pkB
  pkLo := splitLow p.pkB
  pjB  := joinNibbles p.pjHi p.pjLo

end Sys2Proof.Machine
end

