-- ==== Sys2Proof/Syntax.lean ====
section
/-! DEFINITION. The operations of the core: one constructor per row of spec/opcode_table.json. -/

namespace Sys2Proof

/-- A well-formed request, by operation and operands (30_encoding.md R35, R36). Each operand has exactly its field's
width, so no instruction can hold an operand that does not fit. -/
inductive Instr where
  /-- ENCN n: encode the data Nibble n (40_encoder.md R43). -/
  | encn (n : Nibble)
  /-- DECB r: decode the received block r (41_decoder.md R47). -/
  | decb (r : Codeword)
  /-- B2N b: split the byte b into its nibbles (42_packer.md R53). -/
  | b2n (b : Byte)
  /-- N2B h, l: join the high nibble h and the low nibble l (42_packer.md R54). -/
  | n2b (h l : Nibble)
  deriving DecidableEq, Repr

end Sys2Proof
end

