-- ==== Sys2Proof/Decode.lean ====
section
/-! DEFINITION. The request word of 30_encoding.md: its fields, its reserved bits, the decoder and the encoder. -/

namespace Sys2Proof

/-- The op field `req[9:8]` (30_encoding.md R35). -/
def opField (q : Request) : BitVec 2 := q.extractLsb' 8 2

/-- The operand field `req[7:0]` (30_encoding.md R35). -/
def operandField (q : Request) : BitVec 8 := q.extractLsb' 0 8

/-- The reserved bits of each op, as a mask of the operand field (30_encoding.md R38). -/
def reservedMask (op : BitVec 2) : BitVec 8 :=
  if op = 0b00#2 then 0xF0#8
  else if op = 0b01#2 then 0x80#8
  else 0x00#8

/-- A request is malformed when a reserved bit of its op is 1 (30_encoding.md R38). -/
def malformed (q : Request) : Bool := (operandField q &&& reservedMask (opField q)) != 0#8

/-- What the decoder answers: an operation, or the one rejection the spec names, MALFORMED (30_encoding.md R38). -/
inductive Decoded where
  | op (i : Instr)
  | malformed
  deriving DecidableEq, Repr

/-- The decoder, total on all 1024 words (30_encoding.md R39). The reserved bits are checked first, whatever the operand
bits say (60_exceptions.md R61); then the op field selects the operation and each operand is its bit field, unsigned and
unscaled (R35, R36). -/
def decode (q : Request) : Decoded :=
  if malformed q then .malformed
  else if opField q = 0b00#2 then .op (.encn (q.extractLsb' 0 4))
  else if opField q = 0b01#2 then .op (.decb (q.extractLsb' 0 7))
  else if opField q = 0b10#2 then .op (.b2n (q.extractLsb' 0 8))
  else .op (.n2b (q.extractLsb' 4 4) (q.extractLsb' 0 4))

/-- The encoder, from the bit patterns of 30_encoding.md R35. -/
def encode : Instr → Request
  | .encn n => 0b00#2 ++ 0b0000#4 ++ n
  | .decb r => 0b01#2 ++ 0b0#1 ++ r
  | .b2n b => 0b10#2 ++ b
  | .n2b h l => 0b11#2 ++ h ++ l

/-- The 10-bit request word inside a word numbered as spec/opcode_table.json numbers it: bit 0 is `req[0]`. The table's
rows are 10 bits, and whole bytes make that 16, so bits 15 to 10 must be 0: no request is wider than 10 bits (R39; log 10). -/
def requestOfTableWord (nbits w : Nat) : Option Request :=
  if w % 2 ^ nbits < 1024 then some (BitVec.ofNat 10 (w % 2 ^ nbits)) else none

/-- The instruction the decoder reads from a table word; none where the word is malformed or is no 10-bit word. -/
def decodeTableWord (nbits w : Nat) : Option Instr :=
  match requestOfTableWord nbits w with
  | none => none
  | some q =>
    match decode q with
    | .op i => some i
    | .malformed => none

end Sys2Proof
end

