-- ==== Sys2Proof/Machine/Flags.lean ====
section
/-! DEFINITION. The core has no flag (10_state.md rule R20: "Flags written: none" in every operation). What it has is the
status bit of each response, MALFORMED (60_exceptions.md R60), and the response fields (30_encoding.md R37). -/

namespace Sys2Proof.Machine

/-- The cause codes of `rsp[14]` (60_exceptions.md R60). -/
inductive Status where
  /-- 0: every well-formed request. -/
  | ok
  /-- 1: a request with a reserved bit set; no operation was performed. -/
  | malformed
  deriving DecidableEq, Repr

/-- The status of a response: bit `rsp[14]` (60_exceptions.md R60). -/
def statusOf (r : Response) : Status := if r[14] then .malformed else .ok

/-- A response with status OK: `rsp[14] = 0` and the result in `rsp[13:0]` (30_encoding.md R37). -/
def okResponse (result : BitVec 14) : Response := 0#1 ++ result

/-- The MALFORMED response: `rsp[14] = 1` and `rsp[13:0] = 0` (30_encoding.md R37, 60_exceptions.md R60). -/
def malformedResponse : Response := 1#1 ++ 0#14

/-! The result of each op, laid out in `rsp[13:0]`; every bit a rule does not drive is 0 (30_encoding.md R37). -/

/-- ENCN: `rsp[6:0]` = codeword, `rsp[13:7]` = 0. -/
def encnResponse (cw : Codeword) : Response := okResponse (0#7 ++ cw)

/-- DECB: `rsp[13:7]` = correctedBlock, `rsp[6:4]` = errorPosition, `rsp[3:0]` = dataBits. -/
def decbResponse (d : DecodedBlock) : Response := okResponse (d.correctedBlock ++ d.errorPosition ++ d.dataBits)

/-- B2N: `rsp[7:4]` = highNibble, `rsp[3:0]` = lowNibble, `rsp[13:8]` = 0. -/
def b2nResponse (hi lo : Nibble) : Response := okResponse (0#6 ++ hi ++ lo)

/-- N2B: `rsp[7:0]` = byte, `rsp[13:8]` = 0. -/
def n2bResponse (b : Byte) : Response := okResponse (0#6 ++ b)

/-! The fields a host reads from a response (30_encoding.md R37). -/

/-- `rsp[6:0]` of an ENCN response. -/
def rspCodeword (r : Response) : Codeword := r.extractLsb' 0 7
/-- `rsp[13:7]` of a DECB response. -/
def rspCorrectedBlock (r : Response) : Codeword := r.extractLsb' 7 7
/-- `rsp[6:4]` of a DECB response. -/
def rspErrorPosition (r : Response) : Syndrome := r.extractLsb' 4 3
/-- `rsp[3:0]` of a DECB response. -/
def rspDataBits (r : Response) : Nibble := r.extractLsb' 0 4
/-- `rsp[7:4]` of a B2N response. -/
def rspHighNibble (r : Response) : Nibble := r.extractLsb' 4 4
/-- `rsp[3:0]` of a B2N response. -/
def rspLowNibble (r : Response) : Nibble := r.extractLsb' 0 4
/-- `rsp[7:0]` of an N2B response. -/
def rspByte (r : Response) : Byte := r.extractLsb' 0 8

end Sys2Proof.Machine
end

