-- ==== Sys2Proof/Machine/Respond.lean ====
section
/-! DEFINITION. The pure function from request to response (60_exceptions.md rule R60, `respond`), written from that
rule's pseudocode on the raw word. The step does not call it: it decodes and dispatches, and that the two agree is a
statement. It is what Safety.lean and the host's macros speak of. -/

namespace Sys2Proof.Machine

/-- `respond(req)` of 60_exceptions.md R60: the response word of a request word, with matrices t. -/
def respond (t : Config.CodeTables) (q : Request) : Response :=
  if malformed q then malformedResponse
  else match opField q with
    | 0b00#2 => encnResponse (encUnit t.G (q.extractLsb' 0 4))
    | 0b01#2 => decbResponse (decUnit t.H (q.extractLsb' 0 7))
    | 0b10#2 => b2nResponse (splitHigh (operandField q)) (splitLow (operandField q))
    | 0b11#2 => n2bResponse (joinNibbles (q.extractLsb' 4 4) (q.extractLsb' 0 4))

end Sys2Proof.Machine
end

