-- ==== Sys2Proof/Machine/Tables.lean ====
section
/-! DEFINITION. The values of the two constant matrices, entry by entry (10_state.md rules R16 and R17). -/

namespace Sys2Proof.Machine

/-- The generator matrix G, 7 rows and 4 columns (10_state.md R16). -/
def generatorG : BitMatrix 7 4 :=
  #v[#v[true,  true,  false, true ],   -- position 1
     #v[true,  false, true,  true ],   -- position 2
     #v[true,  false, false, false],   -- position 3
     #v[false, true,  true,  true ],   -- position 4
     #v[false, true,  false, false],   -- position 5
     #v[false, false, true,  false],   -- position 6
     #v[false, false, false, true ]]   -- position 7

/-- The parity-check matrix H, 3 rows and 7 columns (10_state.md R17). -/
def parityCheckH : BitMatrix 3 7 :=
  #v[#v[true,  false, true,  false, true,  false, true],   -- s0, weight 1
     #v[false, true,  true,  false, false, true,  true],   -- s1, weight 2
     #v[false, false, false, true,  true,  true,  true]]   -- s2, weight 4

/-- The pair (G, H): the hardwired state of the core at every instant (10_state.md R19, R23). -/
def codeTables : Config.CodeTables where
  G := generatorG
  H := parityCheckH

end Sys2Proof.Machine
end

