-- ==== Sys2Proof/Machine/State.lean ====
section
/-! DEFINITION. State: the pair (G, H), which is all the state the spec gives the core (10_state.md rule R23), the levels
on its ports, and the two lists that stand for the host's side of a run (log 2). Faults and refusals. Reset. -/

namespace Sys2Proof.Machine

/-- One action of the host (30_encoding.md R34, R35): what the outside world can do to the core. -/
inductive Input where
  /-- Present a request word on the request port (30_encoding.md R35). -/
  | request (q : Request)
  /-- Drive new levels on the datapath input ports, all at once (30_encoding.md R34; log 16). -/
  | drive (p : DatapathIn)
  deriving DecidableEq, Repr

/-- The machine. Only `tables` is state of the core; the other fields are levels on ports and the host's side. -/
structure State where
  /-- G and H, hardwired: no operation writes them (10_state.md R19, R23; log 1). -/
  tables   : Config.CodeTables
  /-- The request port `req[9:0]` (30_encoding.md R35). -/
  req      : Request
  /-- The response port `rsp[14:0]` (30_encoding.md R37). -/
  rsp      : Response
  /-- The datapath input ports (30_encoding.md R34). -/
  dpIn     : DatapathIn
  /-- The datapath output ports (30_encoding.md R34). -/
  dpOut    : DatapathOut
  /-- The host's side: its actions still to come, first one first (70_reset_and_hazards.md R71; log 2). -/
  inputs   : List Input
  /-- The host's side: the pairs (request, response) of the run so far, oldest first (70_reset_and_hazards.md R71; log 2). -/
  observed : List (Request × Response)
  deriving DecidableEq, Repr

/-- The reasons a step stops with a fault: there are none. "Every request has a response, so no run of the core is
stuck, faults or hangs" (70_reset_and_hazards.md R71; log 12). Safe or unsafe does not arise: nothing raises one. -/
inductive Fault where
  deriving DecidableEq, Repr

/-- The reasons a step is refused. -/
inductive Refusal where
  /-- Raised only by an arm of `exec` whose instruction has no meaning yet; no arm of this model is such an arm. Safe: the
  machine stops where the hardware would go on. -/
  | notModelled (mnemonic : String)
  deriving DecidableEq, Repr

/-- The machine right after power-up (70_reset_and_hazards.md R66): G and H as hardwired, the outputs already the
function of the inputs, nothing presented and nothing observed. The input levels are log 4, the empty list log 11. -/
def State.reset : State where
  tables   := codeTables
  req      := Config.resetRequest
  rsp      := respond codeTables Config.resetRequest
  dpIn     := resetDatapathIn
  dpOut    := datapath codeTables resetDatapathIn
  inputs   := []
  observed := []

end Sys2Proof.Machine
end

