-- ==== Sys2Proof/Machine/Ops.lean ====
section
/-! DEFINITION. The named operations on State. Every meaning drives the response through `answer`, MALFORMED included. -/

namespace Sys2Proof.Machine

/-- The outcome type of every meaning. -/
abbrev Result := Host.Outcome State Fault Refusal

/-- Drive the response port: `rsp <- w` (00_scope.md R13, 30_encoding.md R37). The one place where an operation writes. -/
def State.driveResponse (s : State) (w : Response) : State := { s with rsp := w }

/-- Answer the request with a response word. An operation has no other effect (20_memory.md R29). -/
def answer (w : Response) (s : State) : Result := .next (s.driveResponse w)

/-- `raise MALFORMED()` (60_exceptions.md R60): the shared operation that stands where other hardware takes an
exception. It sets the response status and performs no operation: no control transfer, no saved state (R56, R63). -/
def raiseMalformed (s : State) : Result := answer malformedResponse s

/-- The host presents a request: the word stands on the request port and the action is done (30_encoding.md R35). -/
def State.present (s : State) (q : Request) (rest : List Input) : State := { s with req := q, inputs := rest }

/-- The host observes the pair (request, response) (70_reset_and_hazards.md R71). -/
def State.observe (s : State) : State := { s with observed := s.observed ++ [(s.req, s.rsp)] }

/-- The host drives the datapath inputs, and the outputs follow (30_encoding.md R34, 70_reset_and_hazards.md R70). The
request interface is not touched (log 9). -/
def State.driveDatapath (s : State) (p : DatapathIn) (rest : List Input) : State :=
  { s with dpIn := p, dpOut := datapath s.tables p, inputs := rest }

/-- The host observes the answer to the request now on the port, if the machine went on. -/
def observeAnswer : Result → Result
  | .next t => .next t.observe
  | .fault f => .fault f
  | .refused r => .refused r

end Sys2Proof.Machine
end

