-- ==== Sys2Proof/Machine/Decoder.lean ====
section
/-! DEFINITION. The meaning of DECB (41_decoder.md). -/

namespace Sys2Proof.Machine

/-- DECB r (41_decoder.md R47): corrected block, error position and data bits, by the DEC unit with the hardwired H.
A nonzero error position is a normal outcome, reported in this response only (60_exceptions.md R58). -/
def execDecb (r : Codeword) (s : State) : Result := answer (decbResponse (decUnit s.tables.H r)) s

end Sys2Proof.Machine
end

