-- ==== Sys2Proof/Machine/Encoder.lean ====
section
/-! DEFINITION. The meaning of ENCN (40_encoder.md). -/

namespace Sys2Proof.Machine

/-- ENCN n (40_encoder.md R43): the codeword of n, by the ENC unit with the hardwired G. -/
def execEncn (n : Nibble) (s : State) : Result := answer (encnResponse (encUnit s.tables.G n)) s

end Sys2Proof.Machine
end

