-- ==== Sys2Proof/Machine/Packer.lean ====
section
/-! DEFINITION. The meanings of B2N and N2B (42_packer.md). -/

namespace Sys2Proof.Machine

/-- B2N b (42_packer.md R53): the high and the low nibble of b. -/
def execB2n (b : Byte) (s : State) : Result := answer (b2nResponse (splitHigh b) (splitLow b)) s

/-- N2B h, l (42_packer.md R54): the byte {h, l}. -/
def execN2b (h l : Nibble) (s : State) : Result := answer (n2bResponse (joinNibbles h l)) s

end Sys2Proof.Machine
end

