-- ==== Sys2Proof/Machine/Dispatch.lean ====
section
/-! DEFINITION. One arm per operation (30_encoding.md rule R36). -/

namespace Sys2Proof.Machine

/-- The meaning of each operation. -/
def exec (i : Instr) (s : State) : Host.Outcome State Fault Refusal :=
  match i with
  | .encn n => Sys2Proof.Machine.execEncn n s
  | .decb r => Sys2Proof.Machine.execDecb r s
  | .b2n b => Sys2Proof.Machine.execB2n b s
  | .n2b h l => Sys2Proof.Machine.execN2b h l s

end Sys2Proof.Machine
end

