-- ==== Sys2Proof/Machine/Transaction.lean ====
section
/-! DEFINITION. One transaction on the request interface (60_exceptions.md rule R60), and the presenting of a request
given as a table word. -/

namespace Sys2Proof.Machine

/-- Decode the request on the port and answer it: the operation it names, or MALFORMED (60_exceptions.md R60). -/
def answerRequest (s : State) : Result :=
  match decode s.req with
  | .op i => exec i s
  | .malformed => raiseMalformed s

/-- One transaction: the host presents q, the core answers, the host observes the pair (70_reset_and_hazards.md R71). -/
def transact (q : Request) (rest : List Input) (s : State) : Result :=
  observeAnswer (answerRequest (s.present q rest))

/-- The host's next action becomes the presenting of the request in a table word. A word that is no 10-bit word cannot
stand on the port, so nothing is presented (log 10). -/
def presentTableWord (s : State) (nbits w : Nat) : State :=
  match requestOfTableWord nbits w with
  | some q => { s with inputs := .request q :: s.inputs }
  | none => s

end Sys2Proof.Machine
end

