-- ==== Sys2Proof/Machine/Step.lean ====
section
/-! DEFINITION. One step: the host's next action, and the core's answer to it. -/

namespace Sys2Proof.Machine

/-- One step of the machine. The core fetches nothing (10_state.md R21): a step takes the host's next action. With none
left the run has ended (70_reset_and_hazards.md R71) and nothing changes (log 5). -/
def step (s : State) : Host.Outcome State Fault Refusal :=
  match s.inputs with
  | [] => .next s
  | .request q :: rest => transact q rest s
  | .drive p :: rest => .next (s.driveDatapath p rest)

/-- s with the request of a table word as the host's next action, so that the next step runs it (log 10, log 11). -/
def State.withFetchWord (s : State) (nbits w : Nat) : State := presentTableWord s nbits w

end Sys2Proof.Machine
end

