-- ==== Sys2Proof/WellFormed.lean ====
section
/-! DEFINITION. Requests as a programmer writes them, and the check that each operand fits its field (30_encoding.md
rule R41). An `Instr` needs no check, since its operands are typed by width; the well-formedness of a raw request word
(R38) is `Sys2Proof.malformed` in Decode.lean. -/

namespace Sys2Proof

/-- One line of assembler: a mnemonic with its operands as numbers, or a raw word (30_encoding.md R41). -/
inductive AsmLine where
  | encn (n : Nat)
  | decb (r : Nat)
  | b2n (b : Nat)
  | n2b (h l : Nat)
  /-- `.req`, a raw 10-bit word: the only way to write a malformed request (R41). -/
  | req (w : Nat)
  deriving DecidableEq, Repr

/-- Every operand fits its field (30_encoding.md R41). -/
def AsmLine.wellFormed : AsmLine → Bool
  | .encn n => decide (n ≤ 15)
  | .decb r => decide (r ≤ 127)
  | .b2n b => decide (b ≤ 255)
  | .n2b h l => decide (h ≤ 15) && decide (l ≤ 15)
  | .req w => decide (w < 1024)

end Sys2Proof
end

