-- ==== Sys2Proof/Machine/HostNotation.lean ====
section
/-! DEFINITION. The host's conventions of 30_encoding.md: assembler syntax (rule R41), the two macros (R42) and the
14-character text line (R40). Pure functions beside the machine: no step calls them. -/

namespace Sys2Proof.Machine

/-! ## Assembler (30_encoding.md R41) -/

/-- The request word of an assembler line; an operand that does not fit its field is refused (30_encoding.md R41). -/
def assemble (a : AsmLine) : Option Request :=
  if a.wellFormed then
    some (match a with
      | .encn n => encode (.encn (BitVec.ofNat 4 n))
      | .decb r => encode (.decb (BitVec.ofNat 7 r))
      | .b2n b => encode (.b2n (BitVec.ofNat 8 b))
      | .n2b h l => encode (.n2b (BitVec.ofNat 4 h) (BitVec.ofNat 4 l))
      | .req w => BitVec.ofNat 10 w)
  else none

/-- The value of a digit, hexadecimal letters in either case (log 13). -/
def digitValue (c : Char) : Option Nat :=
  if '0' ≤ c ∧ c ≤ '9' then some (c.toNat - '0'.toNat)
  else if 'a' ≤ c ∧ c ≤ 'f' then some (c.toNat - 'a'.toNat + 10)
  else if 'A' ≤ c ∧ c ≤ 'F' then some (c.toNat - 'A'.toNat + 10)
  else none

/-- The value of a digit string in a base, from the value of what stands before it. -/
def digitsFrom (base : Nat) : Nat → List Char → Option Nat
  | acc, [] => some acc
  | acc, c :: cs =>
    match digitValue c with
    | some d => if d < base then digitsFrom base (acc * base + d) cs else none
    | none => none

/-- The value of a digit string of at least one digit. -/
def digits (base : Nat) (cs : List Char) : Option Nat :=
  if cs.isEmpty then none else digitsFrom base 0 cs

/-- An operand: `0x` hexadecimal, `0b` binary, or decimal (30_encoding.md R41). -/
def parseNumber : List Char → Option Nat
  | '0' :: 'x' :: cs => digits 16 cs
  | '0' :: 'b' :: cs => digits 2 cs
  | cs => digits 10 cs

/-- The two operands of `N2B h, l`: a comma, then spaces, between them (30_encoding.md R41; log 13). -/
def splitAtComma : List Char → Option (List Char × List Char)
  | [] => none
  | ',' :: cs => some ([], cs.dropWhile (· == ' '))
  | c :: cs => (splitAtComma cs).map fun p => (c :: p.1, p.2)

/-- The text of an assembler line: a mnemonic, one space, the operands (30_encoding.md R41; log 13). A raw word is
written in hexadecimal. -/
def parseLine (text : List Char) : Option AsmLine :=
  match text.takeWhile (· != ' '), (text.dropWhile (· != ' ')).drop 1 with
  | ['E', 'N', 'C', 'N'], args => (parseNumber args).map .encn
  | ['D', 'E', 'C', 'B'], args => (parseNumber args).map .decb
  | ['B', '2', 'N'], args => (parseNumber args).map .b2n
  | ['N', '2', 'B'], args =>
    match splitAtComma args with
    | some (a, b) =>
      match parseNumber a, parseNumber b with
      | some h, some l => some (.n2b h l)
      | _, _ => none
    | none => none
  | ['.', 'r', 'e', 'q'], '0' :: 'x' :: cs => (digits 16 cs).map .req
  | _, _ => none

/-- From assembler text to a request word. -/
def assembleText (text : List Char) : Option Request := (parseLine text).bind assemble

/-- The names of the response fields (30_encoding.md R37, R41). -/
inductive FieldName where
  | codeword
  | correctedBlock
  | errorPosition
  | dataBits
  | highNibble
  | lowNibble
  | byte
  deriving DecidableEq, Repr

/-- A response as it is written: the status, then the fields of 30_encoding.md R37 for the op of the request, in that
rule's order (R41; log 14). -/
structure Listing where
  status : Status
  fields : List (FieldName × Nat)
  deriving DecidableEq, Repr

/-- The listing of the response r to the request q; a MALFORMED response has no field (30_encoding.md R37, R41). -/
def listing (q : Request) (r : Response) : Listing :=
  match statusOf r with
  | .malformed => { status := .malformed, fields := [] }
  | .ok =>
    { status := .ok,
      fields := match opField q with
        | 0b00#2 => [(.codeword, (rspCodeword r).toNat)]
        | 0b01#2 => [(.correctedBlock, (rspCorrectedBlock r).toNat), (.errorPosition, (rspErrorPosition r).toNat),
            (.dataBits, (rspDataBits r).toNat)]
        | 0b10#2 => [(.highNibble, (rspHighNibble r).toNat), (.lowNibble, (rspLowNibble r).toNat)]
        | 0b11#2 => [(.byte, (rspByte r).toNat)] }

/-! ## Macros (30_encoding.md R42) -/

/-- ENCBYTE b: the requests B2N, ENCN, ENCN, the host carrying the nibbles; high-nibble codeword first
(30_encoding.md R42, 20_memory.md R27). -/
def encByte (t : Config.CodeTables) (b : Byte) : Codeword × Codeword :=
  let nibbles := respond t (encode (.b2n b))
  (rspCodeword (respond t (encode (.encn (rspHighNibble nibbles)))),
    rspCodeword (respond t (encode (.encn (rspLowNibble nibbles)))))

/-- DECBYTE r1, r2: the requests DECB, DECB, N2B; the byte and the two error positions (30_encoding.md R42). -/
def decByte (t : Config.CodeTables) (r1 r2 : Codeword) : Byte × Syndrome × Syndrome :=
  let a := respond t (encode (.decb r1))
  let b := respond t (encode (.decb r2))
  (rspByte (respond t (encode (.n2b (rspDataBits a) (rspDataBits b)))), rspErrorPosition a, rspErrorPosition b)

/-! ## The text line (30_encoding.md R40) -/

/-- A bit as a character. -/
def bitChar (b : Bit) : Char := if b then '1' else '0'

/-- The 14-character line of a byte's two codewords: character k is position k of the high-nibble codeword, character
7+k position k of the low-nibble codeword (30_encoding.md R40). -/
def textLine (hi lo : Codeword) : List Char :=
  (codewordSeq hi).toList.map bitChar ++ (codewordSeq lo).toList.map bitChar

/-- The bit a character stands for; any other character than '0' and '1' is rejected (93_implementation_defined.md I11). -/
def charBit (c : Char) : Option Bit :=
  if c = '0' then some false else if c = '1' then some true else none

/-- The two codewords of a line of exactly 14 characters '0' or '1'; every other line is rejected (30_encoding.md R40,
93_implementation_defined.md I11; log 15). -/
def parseTextLine (line : List Char) : Option (Codeword × Codeword) :=
  match line.mapM charBit with
  | some [a1, a2, a3, a4, a5, a6, a7, b1, b2, b3, b4, b5, b6, b7] =>
    some (codewordOfSeq #v[a1, a2, a3, a4, a5, a6, a7], codewordOfSeq #v[b1, b2, b3, b4, b5, b6, b7])
  | _ => none

end Sys2Proof.Machine
end

