-- ==== Sys2Proof/Safety.lean ====
section
/-! DEFINITION. What holds of the machine at every instant, and what a safe step is. -/

namespace Sys2Proof.Machine

/-- G and H are as hardwired (10_state.md R19, R23). -/
abbrev State.Hardwired (s : State) : Prop := s.tables = codeTables

/-- The outputs are the function of the present inputs (70_reset_and_hazards.md R66, R70), on both interfaces. -/
abbrev State.Combinational (s : State) : Prop :=
  s.rsp = respond s.tables s.req ∧ s.dpOut = datapath s.tables s.dpIn

/-- Every observed pair is (q, respond(q)) (70_reset_and_hazards.md R71, 20_memory.md R30). -/
abbrev State.Faithful (s : State) : Prop := ∀ p ∈ s.observed, p.2 = respond codeTables p.1

/-- What every step keeps. -/
abbrev State.Inv (s : State) : Prop := s.Hardwired ∧ s.Combinational ∧ s.Faithful

/-- A safe outcome: the machine goes on, to a state in which everything that must hold holds. -/
def SafeOutcome (o : Host.Outcome State Fault Refusal) : Prop := ∃ t, o = .next t ∧ t.Inv

end Sys2Proof.Machine
end

