-- ==== Sys2Proof/Certificates/Slice0/Obligations.lean ====
section
/-! DEFINITION. The statements for the provers, from the spec's numbered rules. `State.Hardwired` says that G and H have
the values of 10_state.md rules R16 and R17; it stands as a premise where a result rests on those values, since State
holds the two matrices as plain data (log 1), and `TablesNeverChange` says that every step keeps it. An equation
`… = .next { s with … }` is the result and the whole frame at once: every field it does not name is unchanged. That a
request leaves the datapath ports alone is deduced from 30_encoding.md R34 and 70_reset_and_hazards.md R67 (log 9); that
State holds the host's actions and observations is the model's form of a run (log 2). -/

open Sys2Proof Sys2Proof.Machine

/-! ## Encoding -/

/-- Decoding an encoded instruction gives it back, for every operation and every operand value (30_encoding.md R35,
R36). -/
def Obligations.EncodeThenDecodeGivesTheInstruction : Prop :=
  ∀ i : Instr, decode (encode i) = .op i

/-- Every word is the encoding of exactly one instruction, which it decodes to, or is malformed and the encoding of none
(30_encoding.md R39). -/
def Obligations.EveryWordIsOneInstructionOrMalformed : Prop :=
  ∀ q : Request,
    (malformed q = false ∧ ∃ i, decode q = .op i ∧ encode i = q ∧ ∀ j, encode j = q → j = i) ∨
    (malformed q = true ∧ decode q = .malformed ∧ ∀ j, encode j ≠ q)

/-- The 1024 words by operation: 16 ENCN, 128 DECB, 256 B2N, 256 N2B, and 240 and 128 malformed with op 00 and 01
(30_encoding.md R39). -/
def Obligations.WordCountsPerOperation : Prop :=
  let words := (List.range 1024).map (BitVec.ofNat 10)
  words.countP (fun q => match decode q with | .op (.encn _) => true | _ => false) = 16 ∧
  words.countP (fun q => match decode q with | .op (.decb _) => true | _ => false) = 128 ∧
  words.countP (fun q => match decode q with | .op (.b2n _) => true | _ => false) = 256 ∧
  words.countP (fun q => match decode q with | .op (.n2b _ _) => true | _ => false) = 256 ∧
  words.countP (fun q => decide (decode q = .malformed ∧ opField q = 0b00#2)) = 240 ∧
  words.countP (fun q => decide (decode q = .malformed ∧ opField q = 0b01#2)) = 128

/-- Each operation's op field and operand fields stand where the table of 30_encoding.md R35 has them, with every reserved
bit 0. -/
def Obligations.OperandFieldsStandWhereTheTableHasThem : Prop :=
  (∀ n : Nibble, (encode (.encn n)).extractLsb' 8 2 = 0b00#2 ∧ (encode (.encn n)).extractLsb' 4 4 = 0#4 ∧
    (encode (.encn n)).extractLsb' 0 4 = n) ∧
  (∀ r : Codeword, (encode (.decb r)).extractLsb' 8 2 = 0b01#2 ∧ (encode (.decb r)).extractLsb' 7 1 = 0#1 ∧
    (encode (.decb r)).extractLsb' 0 7 = r) ∧
  (∀ b : Byte, (encode (.b2n b)).extractLsb' 8 2 = 0b10#2 ∧ (encode (.b2n b)).extractLsb' 0 8 = b) ∧
  (∀ h l : Nibble, (encode (.n2b h l)).extractLsb' 8 2 = 0b11#2 ∧ (encode (.n2b h l)).extractLsb' 4 4 = h ∧
    (encode (.n2b h l)).extractLsb' 0 4 = l)

/-- A few words, written out from 30_encoding.md R35 and taken from 95_test_vectors.md, decode to what they stand for. -/
def Obligations.SampleWordsDecodeAsWritten : Prop :=
  decode 0b0000001011#10 = .op (.encn 0b1011#4) ∧
  decode 0b0100100011#10 = .op (.decb 0b0100011#7) ∧
  decode 0b1001001000#10 = .op (.b2n 0b01001000#8) ∧
  decode 0b1101001000#10 = .op (.n2b 0b0100#4 0b1000#4) ∧
  decode 0b0000011011#10 = .malformed ∧
  decode 0b0110110011#10 = .malformed

/-- A request is malformed exactly when a reserved bit of its op is 1: `req[7:4]` of op 00, `req[7]` of op 01, none of
the others; and presenting such a request is answered with MALFORMED = 1, no operation performed (30_encoding.md R38)
and nothing else in the core changed; that this takes in the datapath ports is deduced (log 9). -/
def Obligations.ReservedBitsGiveMalformed : Prop :=
  (∀ q : Request, malformed q = true ↔
    (q.extractLsb' 8 2 = 0b00#2 ∧ q.extractLsb' 4 4 ≠ 0#4) ∨ (q.extractLsb' 8 2 = 0b01#2 ∧ q[7] = true)) ∧
  ∀ (s : State) (q : Request) (rest : List Input), s.inputs = .request q :: rest → malformed q = true →
    step s = .next { s with
      req := q, rsp := 0x4000#15, inputs := rest, observed := s.observed ++ [(q, 0x4000#15)] }

/-! ## The step and runs -/

/-- When the request presented decodes to an instruction, the step is `exec` of it with that word on the port, and the
host then observes the pair of the word and the response. -/
def Obligations.StepRunsTheDecodedInstruction : Prop :=
  ∀ (s : State) (q : Request) (rest : List Input) (i : Instr),
    s.inputs = .request q :: rest → decode q = .op i →
    ∃ t, exec i { s with req := q, inputs := rest } = .next t ∧
      step s = .next { t with observed := s.observed ++ [(q, t.rsp)] }

/-- The step on a presented request answers `respond(req)`, written from the pseudocode of 60_exceptions.md R60, and
changes nothing else in the core, the datapath ports included (deduced, log 9); the response's bit 14 is 1 exactly for a
malformed request, and its other bits are then 0. -/
def Obligations.StepAnswersByRespond : Prop :=
  (∀ (s : State) (q : Request) (rest : List Input), s.inputs = .request q :: rest →
    step s = .next { s with
      req := q, rsp := respond s.tables q, inputs := rest, observed := s.observed ++ [(q, respond s.tables q)] }) ∧
  ∀ (t : Config.CodeTables) (q : Request),
    (respond t q).getLsbD 14 = malformed q ∧ (malformed q = true → (respond t q).extractLsb' 0 14 = 0#14)

/-- Driving the datapath sets its inputs and lets every output be its unit's function of them, and touches nothing of the
request interface (30_encoding.md R34; that the two interfaces are separate is the model's reading, log 9, and that all
inputs are driven together log 16). -/
def Obligations.DriveMovesOnlyTheDatapath : Prop :=
  ∀ (s : State) (p : DatapathIn) (rest : List Input), s.inputs = .drive p :: rest →
    step s = .next { s with
      dpIn := p,
      dpOut := { encC := encUnit s.tables.G p.encD,
                 decC := (decUnit s.tables.H p.decR).correctedBlock,
                 decS := (decUnit s.tables.H p.decR).errorPosition,
                 decD := (decUnit s.tables.H p.decR).dataBits,
                 pkHi := p.pkB.extractLsb' 4 4, pkLo := p.pkB.extractLsb' 0 4,
                 pjB := p.pjHi ++ p.pjLo },
      inputs := rest }

/-- With no action of the host left, nothing changes. The model's choice (log 5): the spec says the run has ended. -/
def Obligations.NothingPresentedChangesNothing : Prop :=
  ∀ s : State, s.inputs = [] → step s = .next s

/-- No run of any length, from any state, is stuck, faults or is refused (70_reset_and_hazards.md R71). -/
def Obligations.NoRunStops : Prop :=
  ∀ (k : Nat) (s : State), ∃ t, core.run k s = .next t

/-- A run over the requests q1, ..., qk, from any state in which the matrices are as hardwired, observes exactly the pairs
(qi, respond(qi)) in order and ends with no request left; it is not stuck, faults nowhere and hangs nowhere
(70_reset_and_hazards.md R71). -/
def Obligations.RunObservesEachRequestWithItsResponse : Prop :=
  ∀ (s : State) (qs : List Request), s.Hardwired → s.inputs = qs.map .request →
    ∃ t, core.run qs.length s = .next t ∧
      t.observed = s.observed ++ qs.map (fun q => (q, respond codeTables q)) ∧ t.inputs = [] ∧ t.Hardwired

/-- Driving the datapath between requests, as often and as one likes, changes no response: a run over any list of host
actions observes the pairs of its requests alone (70_reset_and_hazards.md R69). -/
def Obligations.DrivesBetweenRequestsChangeNoResponse : Prop :=
  ∀ s : State, s.Hardwired →
    ∃ t, core.run s.inputs.length s = .next t ∧ t.inputs = [] ∧
      t.observed = s.observed ++
        s.inputs.filterMap (fun a => match a with
          | .request q => some (q, respond codeTables q)
          | .drive _ => none)

/-- Two runs whose requests are reorderings of each other, from any two states that hold the same matrices, each observe
exactly their own requests in the order presented, every response the pure function of its own request; so the two runs
observe the same multiset of request-response pairs (20_memory.md R30). -/
def Obligations.ReorderedRequestsGiveTheSamePairs : Prop :=
  ∀ (s s' : State) (qs qs' : List Request), s.tables = s'.tables →
    s.inputs = qs.map .request → s'.inputs = qs'.map .request → qs.Perm qs' →
    ∃ t t' pairs pairs',
      core.run qs.length s = .next t ∧ core.run qs'.length s' = .next t' ∧
      t.observed = s.observed ++ pairs ∧ t'.observed = s'.observed ++ pairs' ∧
      pairs.map Prod.fst = qs ∧ pairs'.map Prod.fst = qs' ∧ pairs.Perm pairs' ∧
      ∀ p ∈ pairs, p.2 = respond s.tables p.1

/-- The response depends on the request and the matrices only: two states that agree on no more than those give the same
response (00_scope.md R6, 20_memory.md R29, 70_reset_and_hazards.md R68). -/
def Obligations.ResponseDependsOnlyOnTheRequest : Prop :=
  ∀ (s s' : State) (q : Request) (rest rest' : List Input), s.tables = s'.tables →
    s.inputs = .request q :: rest → s'.inputs = .request q :: rest' →
    ∃ t t', step s = .next t ∧ step s' = .next t' ∧ t.rsp = t'.rsp

/-- A malformed request leaves nothing behind: after it the next request gets the response, and leaves the core and its
datapath, as if presented alone (60_exceptions.md R60). -/
def Obligations.MalformedLeavesNothingBehind : Prop :=
  ∀ (s : State) (m q : Request) (rest : List Input), malformed m = true →
    s.inputs = .request m :: .request q :: rest →
    ∃ t u, core.run 2 s = .next t ∧ step { s with inputs := .request q :: rest } = .next u ∧
      t.rsp = u.rsp ∧ t.req = u.req ∧ t.tables = u.tables ∧ t.dpIn = u.dpIn ∧ t.dpOut = u.dpOut ∧ t.inputs = u.inputs

/-- Presenting a table word presents the instruction the decoder reads from it: the next step runs exactly that
instruction, with its word on the port. -/
def Obligations.PresentedTableWordRuns : Prop :=
  ∀ (s : State) (nbits w : Nat) (i : Instr), decodeTableWord nbits w = some i →
    ∃ t, exec i { s with req := encode i } = .next t ∧
      step (s.withFetchWord nbits w) = .next { t with observed := s.observed ++ [(encode i, t.rsp)] }

/-! ## State and reset -/

/-- Everything that must hold of the machine at every instant is kept by every step: G and H as hardwired, every output
the function of the present inputs, every observed pair (q, respond(q)). -/
def Obligations.EveryStepKeepsTheInvariant : Prop :=
  ∀ s t : State, s.Inv → step s = .next t → t.Inv

/-- Every run of any length from a state that meets the invariant is safe: it goes on, to a state that meets the invariant
(70_reset_and_hazards.md R71, 20_memory.md R30). -/
def Obligations.EveryRunIsSafe : Prop :=
  ∀ (k : Nat) (s : State), s.Inv → SafeOutcome (core.run k s)

/-- The invariant holds right after power-up. -/
def Obligations.ResetMeetsTheInvariant : Prop :=
  State.reset.Inv

/-- The matrices after power-up, entry by entry, and that no run from a state holding those values changes them: constant
and immutable (10_state.md R16, R17). -/
def Obligations.MatricesHoldTheirValues : Prop :=
  State.reset.tables.G.toList.map (fun row => row.toList.map Bool.toNat) =
    [[1, 1, 0, 1], [1, 0, 1, 1], [1, 0, 0, 0], [0, 1, 1, 1], [0, 1, 0, 0], [0, 0, 1, 0], [0, 0, 0, 1]] ∧
  State.reset.tables.H.toList.map (fun row => row.toList.map Bool.toNat) =
    [[1, 0, 1, 0, 1, 0, 1], [0, 1, 1, 0, 0, 1, 1], [0, 0, 0, 1, 1, 1, 1]] ∧
  ∀ (k : Nat) (s t : State), s.tables = State.reset.tables → core.run k s = .next t → t.tables = State.reset.tables

/-- No run of any length, from any state, changes the matrices (10_state.md R19, R23). -/
def Obligations.TablesNeverChange : Prop :=
  ∀ (k : Nat) (s t : State), core.run k s = .next t → t.tables = s.tables

/-- Every operation, on every operand and from every state, completes with status OK and changes the response port and
nothing else: the frame of ENCN, DECB, B2N and N2B (10_state.md R20, 20_memory.md R29; that the datapath ports are among
what does not change is deduced, log 9). -/
def Obligations.EveryOperationChangesOnlyTheResponse : Prop :=
  ∀ (i : Instr) (s : State), ∃ w : BitVec 14, exec i s = .next { s with rsp := 0#1 ++ w }

/-- H · G = 0 over GF(2); column p of H, row k weighing 2^k, is the number p; rows 2, 4, 5 and 6 of G are the unit rows,
so codeword positions 3, 5, 6 and 7 carry d1 to d4 unchanged (10_state.md R18). -/
def Obligations.MatricesSatisfyTheDefiningRelations : Prop :=
  (∀ (k : Fin 3) (j : Fin 4),
    parity ((List.finRange 7).map fun (i : Fin 7) => codeTables.H[k][i] && codeTables.G[i][j]) = false) ∧
  (∀ j : Fin 7, (codeTables.H[0][j]).toNat + 2 * (codeTables.H[1][j]).toNat + 4 * (codeTables.H[2][j]).toNat = j.val + 1) ∧
  codeTables.G[2] = #v[true, false, false, false] ∧ codeTables.G[4] = #v[false, true, false, false] ∧
  codeTables.G[5] = #v[false, false, true, false] ∧ codeTables.G[6] = #v[false, false, false, true] ∧
  ∀ n : Nibble, pos (encUnit codeTables.G n) 3 = n[3] ∧ pos (encUnit codeTables.G n) 5 = n[2] ∧
    pos (encUnit codeTables.G n) 6 = n[1] ∧ pos (encUnit codeTables.G n) 7 = n[0]

/-! ## ENCN -/

/-- ENCN answers the GF(2) product of the state's generator matrix with the data nibble, whatever the matrix: codeword
position p, at response bit 7-p, is the parity of row p-1 ANDed with d1 to d4; the rest of the response is 0 and nothing
else changes, the datapath ports included (deduced, log 9). The ENC unit's output port carries the same product of its
input port. A word of op 00 with `req[7:4]` = 0 is ENCN of `req[3:0]`, and no other word is (40_encoder.md R43). -/
def Obligations.EncnIsTheGeneratorProduct : Prop :=
  let isProduct := fun (G : BitMatrix 7 4) (n : Nibble) (c : Codeword) =>
    ∀ p : Fin 7, c.getLsbD (6 - p.val) =
      xor (xor (G[p][0] && n[3]) (G[p][1] && n[2])) (xor (G[p][2] && n[1]) (G[p][3] && n[0]))
  (∀ (s : State) (n : Nibble), ∃ c : Codeword, exec (.encn n) s = .next { s with rsp := 0#8 ++ c } ∧
    isProduct s.tables.G n c) ∧
  (∀ (t : Config.CodeTables) (p : DatapathIn), isProduct t.G p.encD (datapath t p).encC) ∧
  ∀ (q : Request) (n : Nibble), decode q = .op (.encn n) ↔
    q.extractLsb' 8 2 = 0b00#2 ∧ q.extractLsb' 4 4 = 0#4 ∧ q.extractLsb' 0 4 = n

/-- ENCN answers the codeword of the per-bit equations of 40_encoder.md R44, and nothing else changes, the datapath ports
included (deduced, log 9). -/
def Obligations.EncnFollowsThePerBitEquations : Prop :=
  ∀ (s : State) (n : Nibble), s.Hardwired →
    exec (.encn n) s = .next { s with
      rsp := 0#8 ++
        (BitVec.ofBool (xor (xor n[3] n[2]) n[0]) ++ BitVec.ofBool (xor (xor n[3] n[1]) n[0]) ++
          BitVec.ofBool n[3] ++ BitVec.ofBool (xor (xor n[2] n[1]) n[0]) ++
          BitVec.ofBool n[2] ++ BitVec.ofBool n[1] ++ BitVec.ofBool n[0]) }

/-- ENCN of all 16 nibbles is the table of 40_encoder.md R45, and nothing but the response changes, the datapath ports
included (deduced, log 9). -/
def Obligations.EncnIsTheEncodeTable : Prop :=
  let table : Vector Response 16 :=
    #v[0x0000#15, 0x0069#15, 0x002A#15, 0x0043#15, 0x004C#15, 0x0025#15, 0x0066#15, 0x000F#15,
       0x0070#15, 0x0019#15, 0x005A#15, 0x0033#15, 0x003C#15, 0x0055#15, 0x0016#15, 0x007F#15]
  ∀ (s : State) (n : Nibble), s.Hardwired →
    exec (.encn n) s = .next { s with rsp := table[n.toNat]'n.isLt }

/-- The encoder's image (40_encoder.md R46): syndrome 0; injective, the data read back; minimum distance exactly 3;
weights 0 once, 3 seven times, 4 seven times, 7 once; linear. -/
def Obligations.EncoderImageProperties : Prop :=
  let enc := encUnit codeTables.G
  (∀ n, syndrome codeTables.H (enc n) = 0#3) ∧
  (∀ a b, enc a = enc b → a = b) ∧ (∀ n, extractData (enc n) = n) ∧
  (∀ a b, a ≠ b → 3 ≤ weight (enc a ^^^ enc b)) ∧ (∃ a b, weight (enc a ^^^ enc b) = 3) ∧
  (∀ w, ((List.range 16).countP fun n => weight (enc (BitVec.ofNat 4 n)) = w) =
    if w = 0 then 1 else if w = 3 then 7 else if w = 4 then 7 else if w = 7 then 1 else 0) ∧
  (∀ a b, enc (a ^^^ b) = enc a ^^^ enc b)

/-! ## DECB -/

/-- DECB, whatever the parity-check matrix: bit k of errorPosition is the parity of row k ANDed with the received
positions 1 to 7, the corrected block flips the position it names, the data bits are positions 3, 5, 6 and 7 of that
block, and nothing else changes, the datapath ports included (deduced, log 9). The DEC unit's output ports carry the
same three values for its input port. A word of op 01 with `req[7]` = 0 is DECB of `req[6:0]`, and no other word is
(41_decoder.md R47). -/
def Obligations.DecbIsTheParityCheckProduct : Prop :=
  let isDecoding := fun (H : BitMatrix 3 7) (r cb : Codeword) (e : Syndrome) (d : Nibble) =>
    (∀ k : Fin 3, e.getLsbD k.val = parity ((List.finRange 7).map fun (j : Fin 7) => H[k][j] && r.getLsbD (6 - j.val))) ∧
    cb = r ^^^ (if e = 0#3 then 0#7 else 1#7 <<< (7 - e.toNat)) ∧
    d = BitVec.ofBool cb[4] ++ BitVec.ofBool cb[2] ++ BitVec.ofBool cb[1] ++ BitVec.ofBool cb[0]
  (∀ (s : State) (r : Codeword), ∃ (cb : Codeword) (e : Syndrome) (d : Nibble),
    exec (.decb r) s = .next { s with rsp := 0#1 ++ (cb ++ e ++ d) } ∧ isDecoding s.tables.H r cb e d) ∧
  (∀ (t : Config.CodeTables) (p : DatapathIn),
    isDecoding t.H p.decR (datapath t p).decC (datapath t p).decS (datapath t p).decD) ∧
  ∀ (q : Request) (r : Codeword), decode q = .op (.decb r) ↔
    q.extractLsb' 8 2 = 0b01#2 ∧ q[7] = false ∧ q.extractLsb' 0 7 = r

/-- DECB with the hardwired matrices, in the bus equations of 41_decoder.md R48, the formula of R49 and the positions of
R50; nothing else changes, the datapath ports included (deduced, log 9). -/
def Obligations.DecbFollowsTheBusEquations : Prop :=
  ∀ (s : State) (r : Codeword), s.Hardwired →
    let e : Syndrome := BitVec.ofBool (xor (xor r[3] r[2]) (xor r[1] r[0])) ++
      BitVec.ofBool (xor (xor r[5] r[4]) (xor r[1] r[0])) ++ BitVec.ofBool (xor (xor r[6] r[4]) (xor r[2] r[0]))
    let cb : Codeword := r ^^^ (if e = 0#3 then 0#7 else 1#7 <<< (7 - e.toNat))
    let d : Nibble := BitVec.ofBool cb[4] ++ BitVec.ofBool cb[2] ++ BitVec.ofBool cb[1] ++ BitVec.ofBool cb[0]
    exec (.decb r) s = .next { s with rsp := 0#1 ++ (cb ++ e ++ d) }

/-- The syndrome's bus equations, its linearity for every parity-check matrix, and that a codeword does not change the
syndrome of what is added to it (41_decoder.md R48). -/
def Obligations.SyndromeEquationsAndLinearity : Prop :=
  (∀ r : Codeword, syndrome codeTables.H r =
    BitVec.ofBool (xor (xor r[3] r[2]) (xor r[1] r[0])) ++ BitVec.ofBool (xor (xor r[5] r[4]) (xor r[1] r[0])) ++
      BitVec.ofBool (xor (xor r[6] r[4]) (xor r[2] r[0]))) ∧
  (∀ (H : BitMatrix 3 7) (a b : Codeword), syndrome H (a ^^^ b) = syndrome H a ^^^ syndrome H b) ∧
  ∀ (n : Nibble) (x : Codeword), syndrome codeTables.H (encUnit codeTables.G n ^^^ x) = syndrome codeTables.H x

/-- The error-position table: entry by entry, and its formula (41_decoder.md R49). -/
def Obligations.FlipMaskIsTheLookupTable : Prop :=
  ((List.range 8).map fun e => flipMask (BitVec.ofNat 3 e)) =
    [0x00#7, 0x40#7, 0x20#7, 0x10#7, 0x08#7, 0x04#7, 0x02#7, 0x01#7] ∧
  ∀ e : Syndrome, flipMask e = if e = 0#3 then 0#7 else 1#7 <<< (7 - e.toNat)

/-- DECB of a codeword with no position, or any one position, flipped gives back the codeword, the position (0 for none)
and the nibble, with status OK (41_decoder.md R51(a), (b)); nothing else changes, the datapath ports included (deduced,
log 9). -/
def Obligations.DecbCorrectsEverySingleError : Prop :=
  ∀ (s : State) (n : Nibble) (e : Syndrome), s.Hardwired →
    exec (.decb (encUnit codeTables.G n ^^^ (if e = 0#3 then 0#7 else 1#7 <<< (7 - e.toNat)))) s =
      .next { s with rsp := 0#1 ++ (encUnit codeTables.G n ++ e ++ n) }

/-- The code is perfect: every block is a codeword with at most one position flipped, in exactly one way
(41_decoder.md R51(c)). -/
def Obligations.EveryBlockIsOneCodewordWithOneFlip : Prop :=
  ∀ r : Codeword, ∃ (n : Nibble) (e : Syndrome), r = encUnit codeTables.G n ^^^ flipMask e ∧
    ∀ (n' : Nibble) (e' : Syndrome), r = encUnit codeTables.G n' ^^^ flipMask e' → n' = n ∧ e' = e

/-- Two or more flipped positions are miscorrected without any sign: DECB answers with status OK another codeword, the
one within distance 1 of what was received, and its nibble (41_decoder.md R51(d), R52); nothing else changes, the datapath
ports included (deduced, log 9). -/
def Obligations.MultipleErrorsAreMiscorrectedSilently : Prop :=
  ∀ (s : State) (n : Nibble) (x : Codeword), s.Hardwired → 2 ≤ weight x →
    ∃ (m : Nibble) (e : Syndrome), m ≠ n ∧
      exec (.decb (encUnit codeTables.G n ^^^ x)) s =
        .next { s with rsp := 0#1 ++ (encUnit codeTables.G m ++ e ++ m) } ∧
      weight (encUnit codeTables.G m ^^^ (encUnit codeTables.G n ^^^ x)) ≤ 1

/-- Every errorPosition from 1 to 7 is a normal outcome: status OK, that position flipped, 7 like the others, and reported
in the response alone; 0 leaves the block as received (60_exceptions.md R58, 41_decoder.md R52). Nothing but the response
changes, the datapath ports included (deduced, log 9). -/
def Obligations.CorrectionIsANormalOutcome : Prop :=
  ∀ (s : State) (r : Codeword), ∃ w : Response, exec (.decb r) s = .next { s with rsp := w } ∧ statusOf w = .ok ∧
    (rspErrorPosition w = 0#3 → rspCorrectedBlock w = r) ∧
    (rspErrorPosition w ≠ 0#3 → rspCorrectedBlock w = r ^^^ (1#7 <<< (7 - (rspErrorPosition w).toNat))) ∧
    (rspErrorPosition w = 7#3 → rspCorrectedBlock w = r ^^^ 1#7)

/-! ## B2N and N2B -/

/-- B2N answers the byte's first four bits in `rsp[7:4]` and its last four in `rsp[3:0]`, the rest 0, which is the byte
zero-extended; nothing else changes, the datapath ports included (deduced, log 9). The PACK unit's split ports carry the
same halves. Every word of op 10 is B2N of `req[7:0]`, and no other word is (42_packer.md R53). -/
def Obligations.B2nSplitsTheByte : Prop :=
  (∀ (s : State) (b : Byte), ∃ hi lo : Nibble,
    hi = BitVec.ofBool b[7] ++ BitVec.ofBool b[6] ++ BitVec.ofBool b[5] ++ BitVec.ofBool b[4] ∧
    lo = BitVec.ofBool b[3] ++ BitVec.ofBool b[2] ++ BitVec.ofBool b[1] ++ BitVec.ofBool b[0] ∧
    exec (.b2n b) s = .next { s with rsp := 0#7 ++ hi ++ lo } ∧ 0#7 ++ hi ++ lo = b.setWidth 15) ∧
  (∀ (t : Config.CodeTables) (p : DatapathIn),
    (datapath t p).pkHi = p.pkB.extractLsb' 4 4 ∧ (datapath t p).pkLo = p.pkB.extractLsb' 0 4) ∧
  ∀ (q : Request) (b : Byte), decode q = .op (.b2n b) ↔ q.extractLsb' 8 2 = 0b10#2 ∧ q.extractLsb' 0 8 = b

/-- N2B answers the unsigned number 16·h + l, never above 255, which is the operand field zero-extended; nothing else
changes, the datapath ports included (deduced, log 9). The PACK unit's join port carries the same number. Every word of
op 11 is N2B of `req[7:4]` and `req[3:0]`, and no other word is (42_packer.md R54). -/
def Obligations.N2bJoinsTheNibbles : Prop :=
  (∀ (s : State) (h l : Nibble), ∃ w : Response, exec (.n2b h l) s = .next { s with rsp := w } ∧
    w.toNat = 16 * h.toNat + l.toNat ∧ w.toNat ≤ 255 ∧ w = (operandField (encode (.n2b h l))).setWidth 15 ∧
    (h = l → w.toNat = 17 * h.toNat)) ∧
  (∀ (t : Config.CodeTables) (p : DatapathIn), (datapath t p).pjB.toNat = 16 * p.pjHi.toNat + p.pjLo.toNat) ∧
  ∀ (q : Request) (h l : Nibble), decode q = .op (.n2b h l) ↔
    q.extractLsb' 8 2 = 0b11#2 ∧ q.extractLsb' 4 4 = h ∧ q.extractLsb' 0 4 = l

/-- The packer's laws (42_packer.md R55): a byte split and joined is itself; two nibbles joined and split are
themselves; a byte encoded, each codeword spoilt in at most one position, and decoded is itself. -/
def Obligations.PackerLawsAndEndToEndByteCodec : Prop :=
  (∀ (t : Config.CodeTables) (b : Byte),
    let r := respond t (encode (.b2n b))
    rspByte (respond t (encode (.n2b (rspHighNibble r) (rspLowNibble r)))) = b) ∧
  (∀ (t : Config.CodeTables) (h l : Nibble),
    let r := respond t (encode (.b2n (rspByte (respond t (encode (.n2b h l))))))
    rspHighNibble r = h ∧ rspLowNibble r = l) ∧
  ∀ (b : Byte) (x1 x2 : Codeword), weight x1 ≤ 1 → weight x2 ≤ 1 →
    let c1 := rspCodeword (respond codeTables (encode (.encn (rspHighNibble (respond codeTables (encode (.b2n b)))))))
    let c2 := rspCodeword (respond codeTables (encode (.encn (rspLowNibble (respond codeTables (encode (.b2n b)))))))
    rspByte (respond codeTables (encode (.n2b
      (rspDataBits (respond codeTables (encode (.decb (c1 ^^^ x1)))))
      (rspDataBits (respond codeTables (encode (.decb (c2 ^^^ x2)))))))) = b

/-! ## Datapath and status -/

/-- Every datapath output is a function of its own unit's inputs alone: no other input port and, but for G in ENC and H in
DEC, no matrix matters (30_encoding.md R34). -/
def Obligations.DatapathOutputsFollowTheirOwnUnit : Prop :=
  ∀ (t t' : Config.CodeTables) (p p' : DatapathIn),
    (t.G = t'.G → p.encD = p'.encD → (datapath t p).encC = (datapath t' p').encC) ∧
    (t.H = t'.H → p.decR = p'.decR → (datapath t p).decC = (datapath t' p').decC ∧
      (datapath t p).decS = (datapath t' p').decS ∧ (datapath t p).decD = (datapath t' p').decD) ∧
    (p.pkB = p'.pkB → (datapath t p).pkHi = (datapath t' p').pkHi ∧ (datapath t p).pkLo = (datapath t' p').pkLo) ∧
    (p.pjHi = p'.pjHi → p.pjLo = p'.pjLo → (datapath t p).pjB = (datapath t' p').pjB)

/-- The two interfaces compute the same functions: the response to a request holds the datapath outputs of the unit driven
with the request's operands, for any matrices (30_encoding.md R34, R37; the pseudocode of R43, R47, R53, R54). -/
def Obligations.RequestsAgreeWithTheDatapath : Prop :=
  ∀ (t : Config.CodeTables) (p : DatapathIn),
    respond t (encode (.encn p.encD)) = 0#8 ++ (datapath t p).encC ∧
    respond t (encode (.decb p.decR)) = 0#1 ++ (datapath t p).decC ++ (datapath t p).decS ++ (datapath t p).decD ∧
    respond t (encode (.b2n p.pkB)) = 0#7 ++ (datapath t p).pkHi ++ (datapath t p).pkLo ∧
    respond t (encode (.n2b p.pjHi p.pjLo)) = 0#7 ++ (datapath t p).pjB

/-- At most one condition per request: a request with a reserved bit set gets MALFORMED and no result whatever its operand
bits, every other request gets status OK, and a DECB request gets status OK whatever correction it carries
(60_exceptions.md R61). -/
def Obligations.AtMostOneConditionPerRequest : Prop :=
  (∀ (t : Config.CodeTables) (q : Request), malformed q = true → respond t q = 0x4000#15) ∧
  (∀ (t : Config.CodeTables) (q : Request), statusOf (respond t q) = .malformed ↔ malformed q = true) ∧
  ∀ (t : Config.CodeTables) (r : Codeword), statusOf (respond t (encode (.decb r))) = .ok

/-! ## Host notation -/

/-- The assembler refuses exactly the operands that do not fit their field, and what it accepts is the word of the
operation written, or the raw word (30_encoding.md R41). -/
def Obligations.AssemblerRefusesWhatDoesNotFit : Prop :=
  (∀ n : Nat, (15 < n → assemble (.encn n) = none) ∧
    (n ≤ 15 → ∃ q, assemble (.encn n) = some q ∧ ∃ m : Nibble, m.toNat = n ∧ decode q = .op (.encn m))) ∧
  (∀ r : Nat, (127 < r → assemble (.decb r) = none) ∧
    (r ≤ 127 → ∃ q, assemble (.decb r) = some q ∧ ∃ m : Codeword, m.toNat = r ∧ decode q = .op (.decb m))) ∧
  (∀ b : Nat, (255 < b → assemble (.b2n b) = none) ∧
    (b ≤ 255 → ∃ q, assemble (.b2n b) = some q ∧ ∃ m : Byte, m.toNat = b ∧ decode q = .op (.b2n m))) ∧
  (∀ h l : Nat, (15 < h ∨ 15 < l → assemble (.n2b h l) = none) ∧
    (h ≤ 15 → l ≤ 15 → ∃ q, assemble (.n2b h l) = some q ∧
      ∃ m k : Nibble, m.toNat = h ∧ k.toNat = l ∧ decode q = .op (.n2b m k))) ∧
  ∀ w : Nat, (1024 ≤ w → assemble (.req w) = none) ∧
    (w < 1024 → ∃ q, assemble (.req w) = some q ∧ q.toNat = w)

/-- The macros ENCBYTE and DECBYTE (30_encoding.md R42), by the functions of their requests: the codewords of the two
nibbles, high first; the byte of the two data nibbles and the two error positions. -/
def Obligations.MacrosExpandToTheirRequests : Prop :=
  ∀ (t : Config.CodeTables) (b : Byte) (r1 r2 : Codeword),
    encByte t b = (encUnit t.G (b.extractLsb' 4 4), encUnit t.G (b.extractLsb' 0 4)) ∧
    decByte t r1 r2 = ((decUnit t.H r1).dataBits ++ (decUnit t.H r2).dataBits,
      (decUnit t.H r1).errorPosition, (decUnit t.H r2).errorPosition)

/-- The text line has 14 characters, '0' or '1': character k is position k of the high-nibble codeword and character 7+k
position k of the low-nibble codeword, for k in 1..7, so the line is `{cw_hi, cw_lo}` most significant bit first
(30_encoding.md R40). It is read back to the two codewords written, and the lines accepted are exactly the lines
written: a line with another character is rejected by 93_implementation_defined.md I11, and that a line of another
length is rejected is the model's choice (log 15). -/
def Obligations.TextLineReadsBack : Prop :=
  (∀ (hi lo : Codeword) (k : Nat), 1 ≤ k → k ≤ 7 →
    (textLine hi lo)[k - 1]? = some (if hi.getLsbD (7 - k) then '1' else '0') ∧
    (textLine hi lo)[7 + k - 1]? = some (if lo.getLsbD (7 - k) then '1' else '0')) ∧
  (∀ (hi lo : Codeword) (i : Nat), i < 14 →
    (textLine hi lo)[i]? = some (if (hi ++ lo).getLsbD (13 - i) then '1' else '0')) ∧
  (∀ hi lo : Codeword, (textLine hi lo).length = 14 ∧ parseTextLine (textLine hi lo) = some (hi, lo)) ∧
  ∀ (line : List Char) (hi lo : Codeword), parseTextLine line = some (hi, lo) → line = textLine hi lo
end

