-- ==== Sys2Proof/Laws/State.lean ====
section
/-! SUPPORT. One lemma per field per update of State, so that no proof unfolds a record update. -/

namespace Sys2Proof.Machine

/-! Each field after `rsp <- w`. -/

@[simp] theorem State.driveResponse_tables (s : State) (w : Response) :
    (s.driveResponse w).tables = s.tables := rfl
@[simp] theorem State.driveResponse_req (s : State) (w : Response) :
    (s.driveResponse w).req = s.req := rfl
@[simp] theorem State.driveResponse_rsp (s : State) (w : Response) :
    (s.driveResponse w).rsp = w := rfl
@[simp] theorem State.driveResponse_dpIn (s : State) (w : Response) :
    (s.driveResponse w).dpIn = s.dpIn := rfl
@[simp] theorem State.driveResponse_dpOut (s : State) (w : Response) :
    (s.driveResponse w).dpOut = s.dpOut := rfl
@[simp] theorem State.driveResponse_inputs (s : State) (w : Response) :
    (s.driveResponse w).inputs = s.inputs := rfl
@[simp] theorem State.driveResponse_observed (s : State) (w : Response) :
    (s.driveResponse w).observed = s.observed := rfl

/-! Each field after presenting a request. -/

@[simp] theorem State.present_tables (s : State) (q : Request) (rest : List Input) :
    (s.present q rest).tables = s.tables := rfl
@[simp] theorem State.present_req (s : State) (q : Request) (rest : List Input) :
    (s.present q rest).req = q := rfl
@[simp] theorem State.present_rsp (s : State) (q : Request) (rest : List Input) :
    (s.present q rest).rsp = s.rsp := rfl
@[simp] theorem State.present_dpIn (s : State) (q : Request) (rest : List Input) :
    (s.present q rest).dpIn = s.dpIn := rfl
@[simp] theorem State.present_dpOut (s : State) (q : Request) (rest : List Input) :
    (s.present q rest).dpOut = s.dpOut := rfl
@[simp] theorem State.present_inputs (s : State) (q : Request) (rest : List Input) :
    (s.present q rest).inputs = rest := rfl
@[simp] theorem State.present_observed (s : State) (q : Request) (rest : List Input) :
    (s.present q rest).observed = s.observed := rfl

/-! Each field after observing a pair. -/

@[simp] theorem State.observe_tables (s : State) :
    (s.observe).tables = s.tables := rfl
@[simp] theorem State.observe_req (s : State) :
    (s.observe).req = s.req := rfl
@[simp] theorem State.observe_rsp (s : State) :
    (s.observe).rsp = s.rsp := rfl
@[simp] theorem State.observe_dpIn (s : State) :
    (s.observe).dpIn = s.dpIn := rfl
@[simp] theorem State.observe_dpOut (s : State) :
    (s.observe).dpOut = s.dpOut := rfl
@[simp] theorem State.observe_inputs (s : State) :
    (s.observe).inputs = s.inputs := rfl
@[simp] theorem State.observe_observed (s : State) :
    (s.observe).observed = s.observed ++ [(s.req, s.rsp)] := rfl

/-! Each field after driving the datapath. -/

@[simp] theorem State.driveDatapath_tables (s : State) (p : DatapathIn) (rest : List Input) :
    (s.driveDatapath p rest).tables = s.tables := rfl
@[simp] theorem State.driveDatapath_req (s : State) (p : DatapathIn) (rest : List Input) :
    (s.driveDatapath p rest).req = s.req := rfl
@[simp] theorem State.driveDatapath_rsp (s : State) (p : DatapathIn) (rest : List Input) :
    (s.driveDatapath p rest).rsp = s.rsp := rfl
@[simp] theorem State.driveDatapath_dpIn (s : State) (p : DatapathIn) (rest : List Input) :
    (s.driveDatapath p rest).dpIn = p := rfl
@[simp] theorem State.driveDatapath_dpOut (s : State) (p : DatapathIn) (rest : List Input) :
    (s.driveDatapath p rest).dpOut = datapath s.tables p := rfl
@[simp] theorem State.driveDatapath_inputs (s : State) (p : DatapathIn) (rest : List Input) :
    (s.driveDatapath p rest).inputs = rest := rfl
@[simp] theorem State.driveDatapath_observed (s : State) (p : DatapathIn) (rest : List Input) :
    (s.driveDatapath p rest).observed = s.observed := rfl

end Sys2Proof.Machine
end

