-- ==== Sys2Proof/Laws/Ops.lean ====
section
/-! SUPPORT. Everything each shared operation over State can do, said once, and the encoding of each operation as a
well-formed word. -/

namespace Sys2Proof.Machine

/-- All `answer` does: the machine goes on with the response driven. -/
@[simp] theorem answer_eq_next_iff (w : Response) (s t : State) :
    answer w s = .next t ↔ t = s.driveResponse w := by
  constructor
  · intro h
    exact (Host.Outcome.next.inj h).symm
  · rintro rfl
    rfl

/-- All `raiseMalformed` does: the machine goes on with the MALFORMED response driven. -/
@[simp] theorem raiseMalformed_eq_next_iff (s t : State) :
    raiseMalformed s = .next t ↔ t = s.driveResponse malformedResponse :=
  answer_eq_next_iff malformedResponse s t

/-- All `observeAnswer` does to an outcome that goes on. -/
theorem observeAnswer_eq_next_iff (o : Result) (t : State) :
    observeAnswer o = .next t ↔ ∃ u, o = .next u ∧ t = u.observe := by
  cases o with
  | next u => simp [observeAnswer, eq_comm]
  | fault f => simp [observeAnswer]
  | refused r => simp [observeAnswer]

/-- What an operation can do: one of the four responses, and nothing else. -/
theorem exec_cases {i : Instr} {s t : State} (h : exec i s = .next t) :
    (∃ n, i = .encn n ∧ t = s.driveResponse (encnResponse (encUnit s.tables.G n))) ∨
    (∃ r, i = .decb r ∧ t = s.driveResponse (decbResponse (decUnit s.tables.H r))) ∨
    (∃ b, i = .b2n b ∧ t = s.driveResponse (b2nResponse (splitHigh b) (splitLow b))) ∨
    (∃ hi lo, i = .n2b hi lo ∧ t = s.driveResponse (n2bResponse (joinNibbles hi lo))) := by
  cases i with
  | encn n => exact .inl ⟨n, rfl, (answer_eq_next_iff _ s t).1 h⟩
  | decb r => exact .inr (.inl ⟨r, rfl, (answer_eq_next_iff _ s t).1 h⟩)
  | b2n b => exact .inr (.inr (.inl ⟨b, rfl, (answer_eq_next_iff _ s t).1 h⟩))
  | n2b hi lo => exact .inr (.inr (.inr ⟨hi, lo, rfl, (answer_eq_next_iff _ s t).1 h⟩))

end Sys2Proof.Machine
end

