-- ==== Sys2Proof/Laws/PerInstr.lean ====
section
/-! SUPPORT. Statements about every instruction, one lemma per constructor. -/

namespace Sys2Proof.Laws.WellFormedWord

/-- The op code of each operation (30_encoding.md R36). -/
def opCode : Instr → BitVec 2
  | .encn _ => 0b00#2
  | .decb _ => 0b01#2
  | .b2n _ => 0b10#2
  | .n2b _ _ => 0b11#2

/-- The encoded word carries the operation's op code and no reserved bit (30_encoding.md R35, R36, R38). -/
def Statement (i : Instr) : Prop := opField (encode i) = opCode i ∧ malformed (encode i) = false

theorem encn (n : Nibble) : Statement (.encn n) := by
  revert n; unfold Statement; decide

theorem decb (r : Codeword) : Statement (.decb r) := by
  revert r; unfold Statement; decide

theorem b2n (b : Byte) : Statement (.b2n b) := by
  revert b; unfold Statement; decide

theorem n2b (h l : Nibble) : Statement (.n2b h l) := by
  revert h l; unfold Statement; decide

end Sys2Proof.Laws.WellFormedWord
end

