-- ==== Sys2Proof/Laws/Step.lean ====
section
/-! SUPPORT. What a step can do, said once. -/

namespace Sys2Proof.Machine

/-- Answering the request on the port: MALFORMED for a malformed word, else what the decoded operation does. -/
theorem answerRequest_cases {s t : State} (h : answerRequest s = .next t) :
    (decode s.req = .malformed ∧ t = s.driveResponse malformedResponse) ∨
    (∃ i, decode s.req = .op i ∧ exec i s = .next t) := by
  unfold answerRequest at h
  split at h
  · exact .inr ⟨_, ‹_›, h⟩
  · exact .inl ⟨‹_›, (raiseMalformed_eq_next_iff s t).1 h⟩

/-- A step that goes on did one of three things: nothing was left to do, it answered a request and the host observed the
pair, or it drove the datapath. -/
theorem step_cases {s t : State} (h : step s = .next t) :
    (s.inputs = [] ∧ t = s) ∨
    (∃ q rest u, s.inputs = .request q :: rest ∧ answerRequest (s.present q rest) = .next u ∧ t = u.observe) ∨
    (∃ p rest, s.inputs = .drive p :: rest ∧ t = s.driveDatapath p rest) := by
  unfold step at h
  split at h
  · exact .inl ⟨‹_›, (Host.Outcome.next.inj h).symm⟩
  · obtain ⟨u, hu, rfl⟩ := (observeAnswer_eq_next_iff _ t).1 h
    exact .inr (.inl ⟨_, _, u, ‹_›, hu, rfl⟩)
  · exact .inr (.inr ⟨_, _, ‹_›, (Host.Outcome.next.inj h).symm⟩)

end Sys2Proof.Machine
end

