-- ==== Sys2Proof/Laws/Units.lean ====
section
/-! SUPPORT. The small lemmas of the bus mappings, the GF(2) product, the units and the response words. -/

namespace Sys2Proof.Laws

/-- The types have the widths of 00_scope.md R7. -/
theorem words_have_the_parameter_widths :
    Nibble = BitVec Config.nibbleW ∧ Codeword = BitVec Config.codewordW ∧ Syndrome = BitVec Config.syndromeW ∧
    Byte = BitVec Config.byteW ∧ Request = BitVec Config.reqW ∧ Response = BitVec Config.rspW :=
  ⟨rfl, rfl, rfl, rfl, rfl, rfl⟩

end Sys2Proof.Laws

namespace Sys2Proof.Machine

/-! Bus mappings are inverse to each other (00_scope.md R9, R11). -/

@[simp] theorem nibbleOfSeq_nibbleSeq (n : Nibble) : nibbleOfSeq (nibbleSeq n) = n := by
  revert n; decide

@[simp] theorem codewordOfSeq_codewordSeq (cw : Codeword) : codewordOfSeq (codewordSeq cw) = cw := by
  revert cw; decide

/-- The byte's sequence is its high nibble's followed by its low nibble's (00_scope.md R10, 20_memory.md R27). -/
theorem byteSeq_eq_nibbleSeq_append (b : Byte) : byteSeq b = nibbleSeq (splitHigh b) ++ nibbleSeq (splitLow b) := by
  revert b; decide

/-! The GF(2) product (00_scope.md R14). -/

@[simp] theorem gf2Mul_getElem {r c : Nat} (M : BitMatrix r c) (v : Vector Bit c) (i : Nat) (h : i < r) :
    (gf2Mul M v)[i] = gf2Dot M[i] v := by
  simp [gf2Mul]

@[simp] theorem parity_nil : parity [] = false := rfl

@[simp] theorem parity_cons (b : Bit) (bs : List Bit) : parity (b :: bs) = xor b (parity bs) := rfl

/-! The response fields read back what was laid out (30_encoding.md R37). -/

@[simp] theorem rspCodeword_encnResponse (cw : Codeword) : rspCodeword (encnResponse cw) = cw := by
  revert cw; decide

/-- Each bit of a DECB response, by the field it lies in. -/
theorem decbResponse_getLsbD (d : DecodedBlock) (i : Nat) :
    (decbResponse d).getLsbD i =
      if i < 4 then d.dataBits.getLsbD i
      else if i < 7 then d.errorPosition.getLsbD (i - 4)
      else if i < 14 then d.correctedBlock.getLsbD (i - 7)
      else false := by
  simp only [decbResponse, okResponse, BitVec.getLsbD_append]
  split_ifs <;> first | omega | rfl | simp

@[simp] theorem rspCorrectedBlock_decbResponse (d : DecodedBlock) :
    rspCorrectedBlock (decbResponse d) = d.correctedBlock := by
  apply BitVec.eq_of_getLsbD_eq
  intro i hi
  simp only [rspCorrectedBlock, BitVec.getLsbD_extractLsb', decbResponse_getLsbD]
  rw [if_neg (by omega), if_neg (by omega), if_pos (by omega)]
  simp [hi]

@[simp] theorem rspErrorPosition_decbResponse (d : DecodedBlock) :
    rspErrorPosition (decbResponse d) = d.errorPosition := by
  apply BitVec.eq_of_getLsbD_eq
  intro i hi
  simp only [rspErrorPosition, BitVec.getLsbD_extractLsb', decbResponse_getLsbD]
  rw [if_neg (by omega), if_pos (by omega)]
  simp [hi]

@[simp] theorem rspDataBits_decbResponse (d : DecodedBlock) : rspDataBits (decbResponse d) = d.dataBits := by
  apply BitVec.eq_of_getLsbD_eq
  intro i hi
  simp only [rspDataBits, BitVec.getLsbD_extractLsb', decbResponse_getLsbD]
  rw [if_pos (by omega)]
  simp [hi]

@[simp] theorem rspHighNibble_b2nResponse (hi lo : Nibble) : rspHighNibble (b2nResponse hi lo) = hi := by
  revert hi lo; decide

@[simp] theorem rspLowNibble_b2nResponse (hi lo : Nibble) : rspLowNibble (b2nResponse hi lo) = lo := by
  revert hi lo; decide

@[simp] theorem rspByte_n2bResponse (b : Byte) : rspByte (n2bResponse b) = b := by
  revert b; decide

/-! The status of each response word (60_exceptions.md R60). -/

@[simp] theorem statusOf_malformedResponse : statusOf malformedResponse = .malformed := by decide

@[simp] theorem statusOf_okResponse (w : BitVec 14) : statusOf (okResponse w) = .ok := by
  have h : (okResponse w)[14] = false := by
    rw [← BitVec.getLsbD_eq_getElem, okResponse, BitVec.getLsbD_append]
    simp
  simp [statusOf, h]

end Sys2Proof.Machine
end

