-- ==== Sys2Proof/Tests/Slice0.lean ====
section
/-! SUPPORT. Tests: the well-formedness smoke test, decoding of words written out from 30_encoding.md rule R35, the vectors
of 95_test_vectors.md, and for each statement with hypotheses a witness that meets them together. -/

namespace Sys2Proof.Tests

open Sys2Proof.Machine

/-! ## Well-formedness: each check refuses an ill-formed line and accepts the largest good one (30_encoding.md R41) -/

theorem test_wellFormed_encn : (AsmLine.encn 16).wellFormed = false ∧ (AsmLine.encn 15).wellFormed = true := by decide
theorem test_wellFormed_decb : (AsmLine.decb 128).wellFormed = false ∧ (AsmLine.decb 127).wellFormed = true := by decide
theorem test_wellFormed_b2n : (AsmLine.b2n 256).wellFormed = false ∧ (AsmLine.b2n 255).wellFormed = true := by decide
theorem test_wellFormed_n2b : (AsmLine.n2b 16 0).wellFormed = false ∧ (AsmLine.n2b 0 16).wellFormed = false ∧
    (AsmLine.n2b 15 15).wellFormed = true := by decide
theorem test_wellFormed_req : (AsmLine.req 1024).wellFormed = false ∧ (AsmLine.req 1023).wellFormed = true := by decide

/-! ## Decoding: words written out from the patterns of 30_encoding.md R35, op field first -/

/-- `00 0000 nnnn` with n = 1011. -/
theorem test_decode_encn : decode 0b0000001011#10 = .op (.encn 0b1011#4) := by decide
/-- `01 0rrr rrrr` with r = 0100011. -/
theorem test_decode_decb : decode 0b0100100011#10 = .op (.decb 0b0100011#7) := by decide
/-- `10 bbbb bbbb` with b = 10100101. -/
theorem test_decode_b2n : decode 0b1010100101#10 = .op (.b2n 0b10100101#8) := by decide
/-- `11 hhhh llll` with h = 0110, l = 1001. -/
theorem test_decode_n2b : decode 0b1101101001#10 = .op (.n2b 0b0110#4 0b1001#4) := by decide
/-- Each reserved bit alone, `req[4]` to `req[7]` of op 00 and `req[7]` of op 01 (30_encoding.md R38). -/
theorem test_decode_reserved_bits :
    [0b0000010000#10, 0b0000100000#10, 0b0001000000#10, 0b0010000000#10, 0b0110000000#10].map decode =
      [.malformed, .malformed, .malformed, .malformed, .malformed] := by decide
/-- The same bits are operand bits in the other ops (30_encoding.md R38). -/
theorem test_decode_no_reserved_bits_elsewhere :
    decode 0b0101110000#10 = .op (.decb 0b1110000#7) ∧ decode 0b1011110000#10 = .op (.b2n 0b11110000#8) ∧
    decode 0b1111110000#10 = .op (.n2b 0b1111#4 0b0000#4) := by decide
/-- A table word is 10 bits; the bits above are no part of a request. -/
theorem test_decodeTableWord : decodeTableWord 16 0x348 = some (.n2b 4#4 8#4) ∧ decodeTableWord 16 0x748 = none ∧
    decodeTableWord 16 0x1B3 = none := by decide

/-! ## The vectors of 95_test_vectors.md, request by request -/

/-- Vectors E1 to E11 (section 2.1). -/
theorem test_vectors_encn :
    [0x000#10, 0x00F#10, 0x00B#10, 0x004#10, 0x008#10, 0x001#10, 0x00E#10, 0x010#10, 0x01B#10, 0x0FF#10, 0x080#10].map
      (respond codeTables) =
    [0x0000#15, 0x007F#15, 0x0033#15, 0x004C#15, 0x0070#15, 0x0069#15, 0x0016#15, 0x4000#15, 0x4000#15, 0x4000#15,
      0x4000#15] := by decide
/-- Vectors D1 to D20 (section 2.2). -/
theorem test_vectors_decb :
    [0x100#10, 0x17F#10, 0x133#10, 0x173#10, 0x113#10, 0x123#10, 0x13B#10, 0x137#10, 0x131#10, 0x132#10, 0x17E#10,
      0x101#10, 0x103#10, 0x135#10, 0x134#10, 0x160#10, 0x16D#10, 0x180#10, 0x1B3#10, 0x1FF#10].map (respond codeTables) =
    [0x0000#15, 0x3F8F#15, 0x198B#15, 0x199B#15, 0x19AB#15, 0x19BB#15, 0x19CB#15, 0x19DB#15, 0x19EB#15, 0x19FB#15,
      0x3FFF#15, 0x0070#15, 0x2193#15, 0x12B5#15, 0x1E4C#15, 0x3838#15, 0x34D1#15, 0x4000#15, 0x4000#15, 0x4000#15] := by
  decide
/-- Vectors B1 to B5 (section 2.3). -/
theorem test_vectors_b2n :
    [0x200#10, 0x2FF#10, 0x248#10, 0x2A5#10, 0x269#10].map (respond codeTables) =
    [0x0000#15, 0x00FF#15, 0x0048#15, 0x00A5#15, 0x0069#15] := by decide
/-- Vectors J1 to J6 (section 2.4). -/
theorem test_vectors_n2b :
    [0x300#10, 0x3FF#10, 0x348#10, 0x3A5#10, 0x369#10, 0x311#10].map (respond codeTables) =
    [0x0000#15, 0x00FF#15, 0x0048#15, 0x00A5#15, 0x0069#15, 0x0011#15] := by decide

/-! ## One step, from power-up -/

/-- The response port after one step from power-up with the request of a table word presented. -/
def rspAfter (w : Nat) : Option Response :=
  match step (State.reset.withFetchWord 16 w) with
  | .next t => some t.rsp
  | .fault _ => none
  | .refused _ => none

/-- Vector E3: ENCN 0b1011 (the source's literal corrected, 90_conflicts.md C1). -/
theorem test_step_encn : rspAfter 0x00B = some 0x0033#15 := by decide
/-- Vector D10: DECB 0x32, syndrome 7 corrected. -/
theorem test_step_decb : rspAfter 0x132 = some 0x19FB#15 := by decide
/-- Vector B4. -/
theorem test_step_b2n : rspAfter 0x2A5 = some 0x00A5#15 := by decide
/-- Vector J3. -/
theorem test_step_n2b : rspAfter 0x348 = some 0x0048#15 := by decide
/-- Vector D19: malformed, no correction attempted. -/
theorem test_step_malformed : rspAfter 0x1B3 = some 0x4000#15 := by decide

/-! ## Host notation -/

/-- Byte 'H' (95_test_vectors.md W6, P1): codewords 1001100 and 1110000. -/
theorem test_encByte : encByte codeTables 0x48#8 = (0b1001100#7, 0b1110000#7) := by decide
/-- 95_test_vectors.md P3 and P4: one error in each codeword corrected; a double error gives 'L'. -/
theorem test_decByte : decByte codeTables 0x4E#7 0x60#7 = (72#8, 6#3, 3#3) ∧
    decByte codeTables 0x4C#7 0x7C#7 = (76#8, 0#3, 1#3) := by decide
/-- The line of 'H' (95_test_vectors.md W6). -/
theorem test_textLine : textLine 0b1001100#7 0b1110000#7 =
    ['1', '0', '0', '1', '1', '0', '0', '1', '1', '1', '0', '0', '0', '0'] := by decide
/-- A character other than '0' and '1', and a 13-character line, are rejected (95_test_vectors.md W8). -/
theorem test_parseTextLine_rejects :
    parseTextLine ['1', '0', '0', '1', '1', '0', '2', '1', '1', '1', '0', '0', '0', '0'] = none ∧
    parseTextLine ['1', '0', '0', '1', '1', '0', '0', '1', '1', '1', '0', '0', '0'] = none := by decide
/-- Vectors D6 and J3 as text; an operand that does not fit is refused; a raw malformed word is accepted (E8). -/
theorem test_assembleText :
    assembleText ['D', 'E', 'C', 'B', ' ', '0', 'x', '2', '3'] = some 0x123#10 ∧
    assembleText ['N', '2', 'B', ' ', '4', ',', ' ', '8'] = some 0x348#10 ∧
    assembleText ['E', 'N', 'C', 'N', ' ', '1', '6'] = none ∧
    assembleText ['.', 'r', 'e', 'q', ' ', '0', 'x', '0', '1', '0'] = some 0x010#10 := by decide
/-- Vectors D6 and D18 as listings. -/
theorem test_listing :
    listing 0x123#10 0x19BB#15 =
      { status := .ok, fields := [(.correctedBlock, 0x33), (.errorPosition, 3), (.dataBits, 0b1011)] } ∧
    listing 0x180#10 0x4000#15 = { status := .malformed, fields := [] } := by decide

/-! ## Witnesses: a state and operands that meet all hypotheses of each statement together -/

/-- Power-up with actions of the host to come. -/
def withInputs (l : List Input) : State := { State.reset with inputs := l }

/-- New levels on every datapath input. -/
def someLevels : DatapathIn := { encD := 0b1011#4, decR := 0x23#7, pkB := 0x48#8, pjHi := 4#4, pjLo := 8#4 }

theorem witness_ReservedBitsGiveMalformed :
    (withInputs [.request 0x1B3#10]).inputs = .request 0x1B3#10 :: [] ∧ malformed 0x1B3#10 = true ∧
    (withInputs [.request 0x010#10]).inputs = .request 0x010#10 :: [] ∧ malformed 0x010#10 = true := by decide
theorem witness_StepRunsTheDecodedInstruction :
    (withInputs [.request 0x123#10]).inputs = .request 0x123#10 :: [] ∧ decode 0x123#10 = .op (.decb 0x23#7) := by decide
theorem witness_StepAnswersByRespond :
    (withInputs [.request 0x3FF#10]).inputs = .request 0x3FF#10 :: [] ∧ malformed 0x0FF#10 = true := by decide
theorem witness_DriveMovesOnlyTheDatapath :
    (withInputs [.drive someLevels]).inputs = .drive someLevels :: [] := by decide
theorem witness_NothingPresentedChangesNothing : State.reset.inputs = [] := by decide
theorem witness_RunObservesEachRequestWithItsResponse :
    (withInputs [.request 0x0FF#10, .request 0x00B#10]).Hardwired ∧
    (withInputs [.request 0x0FF#10, .request 0x00B#10]).inputs = [0x0FF#10, 0x00B#10].map .request := by decide
theorem witness_DrivesBetweenRequestsChangeNoResponse :
    (withInputs [.request 0x00B#10, .drive someLevels, .request 0x133#10]).Hardwired := by decide
theorem witness_ReorderedRequestsGiveTheSamePairs :
    (withInputs [.request 0x00B#10, .request 0x133#10]).tables = (withInputs [.request 0x133#10, .request 0x00B#10]).tables ∧
    (withInputs [.request 0x00B#10, .request 0x133#10]).inputs = [0x00B#10, 0x133#10].map .request ∧
    (withInputs [.request 0x133#10, .request 0x00B#10]).inputs = [0x133#10, 0x00B#10].map .request ∧
    [0x00B#10, 0x133#10].Perm [0x133#10, 0x00B#10] := by decide
theorem witness_ResponseDependsOnlyOnTheRequest :
    (withInputs [.request 0x00B#10]).tables = (withInputs [.request 0x00B#10, .request 0x133#10]).tables ∧
    (withInputs [.request 0x00B#10]).inputs = .request 0x00B#10 :: [] ∧
    (withInputs [.request 0x00B#10, .request 0x133#10]).inputs = .request 0x00B#10 :: [.request 0x133#10] := by decide
theorem witness_MalformedLeavesNothingBehind :
    malformed 0x0FF#10 = true ∧
    (withInputs [.request 0x0FF#10, .request 0x00B#10]).inputs = .request 0x0FF#10 :: .request 0x00B#10 :: [] := by decide
theorem witness_PresentedTableWordRuns : decodeTableWord 16 0x132 = some (.decb 0x32#7) := by decide
theorem witness_EveryStepKeepsTheInvariant :
    (withInputs [.request 0x132#10]).Inv ∧ ∃ t, step (withInputs [.request 0x132#10]) = .next t ∧ t.rsp = 0x19FB#15 := by
  refine ⟨⟨rfl, ⟨rfl, rfl⟩, fun p hp => by cases hp⟩, _, rfl, ?_⟩
  decide
theorem witness_EveryRunIsSafe : (withInputs [.request 0x132#10, .drive someLevels]).Inv :=
  ⟨rfl, ⟨rfl, rfl⟩, fun p hp => by cases hp⟩
theorem witness_MatricesHoldTheirValues :
    (withInputs [.drive someLevels]).tables = State.reset.tables ∧
    core.run 1 (withInputs [.drive someLevels]) = .next ((withInputs []).driveDatapath someLevels []) :=
  ⟨rfl, rfl⟩
theorem witness_TablesNeverChange :
    core.run 1 (withInputs [.drive someLevels]) = .next ((withInputs []).driveDatapath someLevels []) := rfl
theorem witness_EncnFollowsThePerBitEquations : State.reset.Hardwired := by decide
theorem witness_EncnIsTheEncodeTable : State.reset.Hardwired := by decide
theorem witness_EncoderImageProperties :
    encUnit codeTables.G 11#4 = encUnit codeTables.G 11#4 ∧ (3#4 : Nibble) ≠ 4#4 := by decide
theorem witness_DecbFollowsTheBusEquations : State.reset.Hardwired := by decide
theorem witness_DecbCorrectsEverySingleError : State.reset.Hardwired := by decide
theorem witness_MultipleErrorsAreMiscorrectedSilently : State.reset.Hardwired ∧ 2 ≤ weight 0b0110000#7 := by decide
/-- Each clause on errorPosition is met: no error, position 1 and position 7 (vectors D3, D4, D10). -/
theorem witness_CorrectionIsANormalOutcome :
    rspErrorPosition (respond codeTables 0x133#10) = 0#3 ∧ rspErrorPosition (respond codeTables 0x173#10) ≠ 0#3 ∧
    rspErrorPosition (respond codeTables 0x132#10) = 7#3 := by decide
theorem witness_EveryBlockIsOneCodewordWithOneFlip :
    (0x23#7 : Codeword) = encUnit codeTables.G 11#4 ^^^ flipMask 3#3 := by decide
theorem witness_EveryWordIsOneInstructionOrMalformed : encode (.encn 11#4) = 0x00B#10 ∧ malformed 0x00B#10 = false ∧
    malformed 0x010#10 = true := by decide
/-- Both sides of the decoding clauses of the four result statements, with each reserved-bit boundary. -/
theorem witness_decoding_clauses :
    decode 0x00F#10 = .op (.encn 15#4) ∧ decode 0x010#10 ≠ .op (.encn 0#4) ∧
    decode 0x17F#10 = .op (.decb 127#7) ∧ decode 0x180#10 ≠ .op (.decb 0#7) ∧
    decode 0x2FF#10 = .op (.b2n 255#8) ∧ decode 0x3FF#10 = .op (.n2b 15#4 15#4) := by decide
theorem witness_N2bJoinsTheNibbles : (1#4 : Nibble) = 1#4 ∧ decode 0x311#10 = .op (.n2b 1#4 1#4) := by decide
theorem witness_PackerLawsAndEndToEndByteCodec : weight 0x02#7 ≤ 1 ∧ weight 0x00#7 ≤ 1 := by decide
theorem witness_DatapathOutputsFollowTheirOwnUnit :
    codeTables.G = codeTables.G ∧ codeTables.H = codeTables.H ∧
    someLevels.encD = { someLevels with decR := 0#7 }.encD ∧ someLevels.decR = { someLevels with encD := 0#4 }.decR ∧
    someLevels.pkB = { someLevels with encD := 0#4 }.pkB ∧ someLevels.pjHi = { someLevels with encD := 0#4 }.pjHi ∧
    someLevels.pjLo = { someLevels with encD := 0#4 }.pjLo := by decide
theorem witness_AtMostOneConditionPerRequest : malformed 0x1B3#10 = true := by decide
/-- Each side of each bound of the assembler's fields. -/
theorem witness_AssemblerRefusesWhatDoesNotFit :
    15 < 16 ∧ 15 ≤ 15 ∧ 127 < 128 ∧ 127 ≤ 127 ∧ 255 < 256 ∧ 255 ≤ 255 ∧ 1024 ≤ 1024 ∧ 1023 < 1024 := by decide
/-- Each clause at the ends of its range: characters 1, 7, 8 and 14 of the line of 'H', and its reading. -/
theorem witness_TextLineReadsBack :
    (textLine 0b1001100#7 0b1110000#7)[1 - 1]? = some '1' ∧ (textLine 0b1001100#7 0b1110000#7)[7 - 1]? = some '0' ∧
    (textLine 0b1001100#7 0b1110000#7)[7 + 1 - 1]? = some '1' ∧ (textLine 0b1001100#7 0b1110000#7)[7 + 7 - 1]? = some '0' ∧
    parseTextLine ['1', '0', '0', '1', '1', '0', '0', '1', '1', '1', '0', '0', '0', '0'] =
      some (0b1001100#7, 0b1110000#7) := by decide

end Sys2Proof.Tests
end

section
/-! The answer to a request as the pure function `respond`, and the step that presents one (60_exceptions.md R60). -/

namespace Sys2Proof.Machine

/-- Every op field is one of the four op codes (30_encoding.md R36). -/
theorem opField_cases (q : Request) :
    opField q = 0b00#2 ∨ opField q = 0b01#2 ∨ opField q = 0b10#2 ∨ opField q = 0b11#2 := by
  generalize opField q = op
  revert op
  decide

/-- Decode and dispatch agree with the pseudocode of 60_exceptions.md R60, written on the raw word. -/
theorem answerRequest_eq_respond (s : State) :
    answerRequest s = .next (s.driveResponse (respond s.tables s.req)) := by
  unfold answerRequest decode respond
  by_cases hm : malformed s.req = true
  · simp [hm, raiseMalformed, answer]
  · obtain h | h | h | h := opField_cases s.req
    · simp [hm, h, exec, execEncn, answer]
    · simp [hm, h, exec, execDecb, answer]
    · simp [hm, h, exec, execB2n, answer, operandField]
    · simp [hm, h, exec, execN2b, answer]

/-- The step with a request next: present it, drive its response, let the host observe the pair. -/
theorem step_request {s : State} {q : Request} {rest : List Input} (h : s.inputs = .request q :: rest) :
    step s = .next ((s.present q rest).driveResponse (respond s.tables q)).observe := by
  simp [step, h, transact, answerRequest_eq_respond, observeAnswer]

/-- Settles O15: either step drives `respond` of the request and of its state's matrices, and the matrices agree. -/
theorem responseDependsOnlyOnTheRequest : Obligations.ResponseDependsOnlyOnTheRequest := by
  intro s s' q rest rest' htables hs hs'
  refine ⟨_, _, step_request hs, step_request hs', ?_⟩
  simp [htables]

end Sys2Proof.Machine
end

section
/-! What a step that goes on leads to, with the answer to a request as `respond` of it; the fields each step keeps; and
the one induction over runs (10_state.md R19, R23; 70_reset_and_hazards.md R66, R71). -/

namespace Sys2Proof.Machine

/-- `step_cases` with the answer to the request written out: the response driven is `respond` of the request presented. -/
theorem step_next_cases {s t : State} (h : step s = .next t) :
    (s.inputs = [] ∧ t = s) ∨
    (∃ q rest, s.inputs = .request q :: rest ∧
      t = ((s.present q rest).driveResponse (respond s.tables q)).observe) ∨
    (∃ p rest, s.inputs = .drive p :: rest ∧ t = s.driveDatapath p rest) := by
  obtain hidle | ⟨q, rest, -, hin, -, -⟩ | hdrive := step_cases h
  · exact .inl hidle
  · exact .inr (.inl ⟨q, rest, hin, Host.Outcome.next.inj (h.symm.trans (step_request hin))⟩)
  · exact .inr (.inr hdrive)

/-- No step writes the matrices (10_state.md R19). -/
theorem step_tables {s t : State} (h : step s = .next t) : t.tables = s.tables := by
  obtain ⟨-, rfl⟩ | ⟨q, rest, -, rfl⟩ | ⟨p, rest, -, rfl⟩ := step_next_cases h
  · rfl
  · simp
  · simp

/-- A step moves a port's inputs and outputs together, so the outputs stay the function of the inputs. -/
theorem step_keeps_combinational {s t : State} (hcomb : s.Combinational) (h : step s = .next t) :
    t.Combinational := by
  obtain ⟨hrsp, hdp⟩ := hcomb
  obtain ⟨-, rfl⟩ | ⟨q, rest, -, rfl⟩ | ⟨p, rest, -, rfl⟩ := step_next_cases h
  · exact ⟨hrsp, hdp⟩
  · exact ⟨by simp, by simpa using hdp⟩
  · exact ⟨by simpa using hrsp, by simp⟩

/-- The one pair a step can add is the request presented with its response; the hardwired matrices make that response
`respond codeTables`. -/
theorem step_keeps_faithful {s t : State} (hhard : s.Hardwired) (hfaith : s.Faithful) (h : step s = .next t) :
    t.Faithful := by
  obtain ⟨-, rfl⟩ | ⟨q, rest, -, rfl⟩ | ⟨p, rest, -, rfl⟩ := step_next_cases h
  · exact hfaith
  · intro pair hpair
    obtain hold | rfl : pair ∈ s.observed ∨ pair = (q, respond s.tables q) := by simpa using hpair
    · exact hfaith pair hold
    · exact congrArg (respond · q) hhard
  · exact hfaith

/-- Settles O18: each of the three parts is kept, the observed pairs because the matrices are hardwired. -/
theorem everyStepKeepsTheInvariant : Obligations.EveryStepKeepsTheInvariant := by
  intro s t ⟨hhard, hcomb, hfaith⟩ h
  exact ⟨(step_tables h).trans hhard, step_keeps_combinational hcomb h, step_keeps_faithful hhard hfaith h⟩

/-- A longer run that goes on is a step that goes on, then the rest of the run. -/
theorem run_succ_eq_next_iff (M : Host.Core) (k : Nat) (s t : M.State) :
    M.run (k + 1) s = .next t ↔ ∃ u, M.step s = .next u ∧ M.run k u = .next t := by
  rw [Host.Core.run]
  cases M.step s <;> simp

/-- What every step keeps, every run keeps. -/
theorem run_keeps {M : Host.Core} {P : M.State → Prop} (hstep : ∀ {s t}, P s → M.step s = .next t → P t)
    {k : Nat} {s t : M.State} (hs : P s) (h : M.run k s = .next t) : P t := by
  induction k generalizing s with
  | zero => exact Host.Outcome.next.inj h ▸ hs
  | succ k ih =>
    obtain ⟨u, hu, hrun⟩ := (run_succ_eq_next_iff M k s t).1 h
    exact ih (hstep hs hu) hrun

/-- Settles O22: no step writes the matrices, so no run does. -/
theorem tablesNeverChange : Obligations.TablesNeverChange := by
  intro k s t h
  exact run_keeps (P := fun u : State => u.tables = s.tables) (fun hu hstep => (step_tables hstep).trans hu) rfl h

/-- Settles O21: the entries are read off the two constants, and no run changes them. -/
theorem matricesHoldTheirValues : Obligations.MatricesHoldTheirValues := by
  refine ⟨by decide, by decide, ?_⟩
  intro k s t hs h
  exact (tablesNeverChange k s t h).trans hs

/-- Every operation is an answer with status OK: the result it lays out in `rsp[13:0]` (30_encoding.md R37). -/
theorem exec_eq_answer_okResponse (i : Instr) (s : State) : ∃ w, exec i s = answer (okResponse w) s := by
  cases i with
  | encn n => exact ⟨0#7 ++ encUnit s.tables.G n, rfl⟩
  | decb r =>
    exact ⟨(decUnit s.tables.H r).correctedBlock ++ (decUnit s.tables.H r).errorPosition ++
      (decUnit s.tables.H r).dataBits, rfl⟩
  | b2n b => exact ⟨0#6 ++ splitHigh b ++ splitLow b, rfl⟩
  | n2b h l => exact ⟨0#6 ++ joinNibbles h l, rfl⟩

/-- Settles O23: an answer with status OK drives the response port alone. -/
theorem everyOperationChangesOnlyTheResponse : Obligations.EveryOperationChangesOnlyTheResponse := by
  intro i s
  obtain ⟨w, hw⟩ := exec_eq_answer_okResponse i s
  exact ⟨w, hw⟩

end Sys2Proof.Machine
end

section
/-! The defining relations of the two constant matrices (10_state.md R18). -/

namespace Sys2Proof.Machine

/-- H · G = 0 over GF(2), entry by entry. -/
theorem parityCheckH_mul_generatorG (k : Fin 3) (j : Fin 4) :
    parity ((List.finRange 7).map fun (i : Fin 7) => parityCheckH[k][i] && generatorG[i][j]) = false := by
  revert k j
  decide

/-- Column p of H is the number p, in positions counted from 1. -/
theorem parityCheckH_column (j : Fin 7) :
    (parityCheckH[0][j]).toNat + 2 * (parityCheckH[1][j]).toNat + 4 * (parityCheckH[2][j]).toNat = j.val + 1 := by
  revert j
  decide

/-- Codeword positions 3, 5, 6 and 7 carry d1 to d4 unchanged. -/
theorem encUnit_data_positions (n : Nibble) :
    pos (encUnit generatorG n) 3 = n[3] ∧ pos (encUnit generatorG n) 5 = n[2] ∧
    pos (encUnit generatorG n) 6 = n[1] ∧ pos (encUnit generatorG n) 7 = n[0] := by
  revert n
  decide

/-- Settles O24: the four unit rows of G are read off, the rest are the relations above. -/
theorem matricesSatisfyTheDefiningRelations : Obligations.MatricesSatisfyTheDefiningRelations :=
  ⟨parityCheckH_mul_generatorG, parityCheckH_column, rfl, rfl, rfl, rfl, encUnit_data_positions⟩

end Sys2Proof.Machine
end

section
/-! A run over a list of requests, and its independence of their order (20_memory.md R30; 70_reset_and_hazards.md R71). -/

namespace Sys2Proof.Machine

/-- A run over requests goes on to its end and observes each of them, in order, with the response `respond` gives it. -/
theorem run_requests {s : State} {qs : List Request} (hin : s.inputs = qs.map .request) :
    ∃ t, core.run qs.length s = .next t ∧ t.inputs = [] ∧
      t.observed = s.observed ++ qs.map (fun q => (q, respond s.tables q)) := by
  induction qs generalizing s with
  | nil => exact ⟨s, rfl, hin, by simp⟩
  | cons q qs ih =>
    have hstep := step_request hin
    obtain ⟨t, hrun, hend, hobs⟩ :=
      ih (s := ((s.present q (qs.map .request)).driveResponse (respond s.tables q)).observe) (by simp)
    exact ⟨t, (run_succ_eq_next_iff core qs.length s t).2 ⟨_, hstep, hrun⟩, hend, by simpa using hobs⟩

/-- Settles O14: each run observes the pairing of its own requests with `respond` of the common matrices, and mapping
one pairing over both lists keeps the reordering. -/
theorem reorderedRequestsGiveTheSamePairs : Obligations.ReorderedRequestsGiveTheSamePairs := by
  intro s s' qs qs' htables hin hin' hperm
  obtain ⟨t, hrun, -, hobs⟩ := run_requests hin
  obtain ⟨t', hrun', -, hobs'⟩ := run_requests hin'
  rw [← htables] at hobs'
  have hfst (l : List Request) : (l.map fun q => (q, respond s.tables q)).map Prod.fst = l := by
    simp [Function.comp_def]
  exact ⟨t, t', _, _, hrun, hrun', hobs, hobs', hfst qs, hfst qs', hperm.map _, by simp⟩

end Sys2Proof.Machine
end

section
/-! The request word and its instruction (30_encoding.md R35 to R39): where the fields stand, which words the decoder
reads as which operation, and that it and the encoder are inverse to each other. -/

namespace Sys2Proof.Machine

open BitVec (extractLsb'_append_eq_left extractLsb'_append_eq_right extractLsb'_append_eq_of_le
  extractLsb'_append_extractLsb'_eq_extractLsb' extractLsb'_eq_self)

/-! ## The fields of an encoded word -/

/-- ENCN is `00 0000 nnnn` (30_encoding.md R35). -/
theorem encode_encn_fields (n : Nibble) :
    opField (encode (.encn n)) = 0b00#2 ∧ (encode (.encn n)).extractLsb' 4 4 = 0#4 ∧
    (encode (.encn n)).extractLsb' 0 4 = n :=
  ⟨extractLsb'_append_eq_of_le (by decide), extractLsb'_append_eq_of_le le_rfl, extractLsb'_append_eq_right⟩

/-- DECB is `01 0rrr rrrr` (30_encoding.md R35). -/
theorem encode_decb_fields (r : Codeword) :
    opField (encode (.decb r)) = 0b01#2 ∧ (encode (.decb r)).extractLsb' 7 1 = 0#1 ∧
    (encode (.decb r)).extractLsb' 0 7 = r :=
  ⟨extractLsb'_append_eq_of_le (by decide), extractLsb'_append_eq_of_le le_rfl, extractLsb'_append_eq_right⟩

/-- B2N is `10 bbbb bbbb` (30_encoding.md R35). -/
theorem encode_b2n_fields (b : Byte) :
    opField (encode (.b2n b)) = 0b10#2 ∧ operandField (encode (.b2n b)) = b :=
  ⟨extractLsb'_append_eq_left, extractLsb'_append_eq_right⟩

/-- N2B is `11 hhhh llll` (30_encoding.md R35). -/
theorem encode_n2b_fields (h l : Nibble) :
    opField (encode (.n2b h l)) = 0b11#2 ∧ (encode (.n2b h l)).extractLsb' 4 4 = h ∧
    (encode (.n2b h l)).extractLsb' 0 4 = l :=
  ⟨(extractLsb'_append_eq_of_le (by decide)).trans extractLsb'_append_eq_left,
    (extractLsb'_append_eq_of_le le_rfl).trans extractLsb'_append_eq_right, extractLsb'_append_eq_right⟩

/-- Settles O4: the fields of each operation's word, one by one. -/
theorem operandFieldsStandWhereTheTableHasThem : Obligations.OperandFieldsStandWhereTheTableHasThem :=
  ⟨encode_encn_fields, encode_decb_fields, encode_b2n_fields, encode_n2b_fields⟩

/-! ## A word is its fields side by side -/

/-- The op field above the operand field. -/
theorem opField_append_operandField (q : Request) : opField q ++ operandField q = q :=
  (extractLsb'_append_extractLsb'_eq_extractLsb' rfl).trans extractLsb'_eq_self

/-- The operand field as two nibbles. -/
theorem operandField_eq_nibbles (q : Request) : q.extractLsb' 4 4 ++ q.extractLsb' 0 4 = operandField q :=
  extractLsb'_append_extractLsb'_eq_extractLsb' rfl

/-- The operand field as its top bit above a block. -/
theorem operandField_eq_bit_block (q : Request) : q.extractLsb' 7 1 ++ q.extractLsb' 0 7 = operandField q :=
  extractLsb'_append_extractLsb'_eq_extractLsb' rfl

/-! ## The decoder, operation by operation -/

/-- The reserved bits of op 00 are the high nibble of the operand field. -/
theorem nibbles_and_mask_eq_zero_iff (h l : Nibble) : (h ++ l) &&& 0xF0#8 = 0#8 ↔ h = 0#4 := by
  revert h l
  decide

/-- The reserved bit of op 01 is the top bit of the operand field. -/
theorem bit_block_and_mask_eq_zero_iff (b : BitVec 1) (r : Codeword) : (b ++ r) &&& 0x80#8 = 0#8 ↔ b = 0#1 := by
  revert b r
  decide

/-- Malformed exactly when a reserved bit is 1: `req[7:4]` of op 00, `req[7]` of op 01 (30_encoding.md R38). -/
theorem malformed_iff (q : Request) : malformed q = true ↔
    (opField q = 0b00#2 ∧ q.extractLsb' 4 4 ≠ 0#4) ∨ (opField q = 0b01#2 ∧ q.extractLsb' 7 1 ≠ 0#1) := by
  obtain hop | hop | hop | hop := opField_cases q
  · simp [malformed, reservedMask, hop, ← operandField_eq_nibbles, nibbles_and_mask_eq_zero_iff]
  · simp [malformed, reservedMask, hop, ← operandField_eq_bit_block, bit_block_and_mask_eq_zero_iff]
  · simp [malformed, reservedMask, hop]
  · simp [malformed, reservedMask, hop]

/-- Op 00 is ENCN of the low nibble, or malformed (30_encoding.md R35, R38). -/
theorem decode_of_op_00 {q : Request} (hop : opField q = 0b00#2) :
    decode q = if q.extractLsb' 4 4 = 0#4 then .op (.encn (q.extractLsb' 0 4)) else .malformed := by
  by_cases hres : q.extractLsb' 4 4 = 0#4 <;> simp [decode, malformed_iff, hop, hres]

/-- Op 01 is DECB of the low seven bits, or malformed (30_encoding.md R35, R38). -/
theorem decode_of_op_01 {q : Request} (hop : opField q = 0b01#2) :
    decode q = if q.extractLsb' 7 1 = 0#1 then .op (.decb (q.extractLsb' 0 7)) else .malformed := by
  by_cases hres : q.extractLsb' 7 1 = 0#1 <;> simp [decode, malformed_iff, hop, hres]

/-- Op 10 is B2N of the operand field (30_encoding.md R35). -/
theorem decode_of_op_10 {q : Request} (hop : opField q = 0b10#2) : decode q = .op (.b2n (operandField q)) := by
  simp [decode, malformed_iff, hop, operandField]

/-- Op 11 is N2B of the operand field's nibbles (30_encoding.md R35). -/
theorem decode_of_op_11 {q : Request} (hop : opField q = 0b11#2) :
    decode q = .op (.n2b (q.extractLsb' 4 4) (q.extractLsb' 0 4)) := by
  simp [decode, malformed_iff, hop]

/-- The words of ENCN. -/
theorem decode_eq_encn_iff (q : Request) (n : Nibble) : decode q = .op (.encn n) ↔
    opField q = 0b00#2 ∧ q.extractLsb' 4 4 = 0#4 ∧ q.extractLsb' 0 4 = n := by
  obtain hop | hop | hop | hop := opField_cases q <;>
    simp [decode_of_op_00, decode_of_op_01, decode_of_op_10, decode_of_op_11, hop, ite_eq_iff]

/-- The words of DECB. -/
theorem decode_eq_decb_iff (q : Request) (r : Codeword) : decode q = .op (.decb r) ↔
    opField q = 0b01#2 ∧ q.extractLsb' 7 1 = 0#1 ∧ q.extractLsb' 0 7 = r := by
  obtain hop | hop | hop | hop := opField_cases q <;>
    simp [decode_of_op_00, decode_of_op_01, decode_of_op_10, decode_of_op_11, hop, ite_eq_iff]

/-- The words of B2N. -/
theorem decode_eq_b2n_iff (q : Request) (b : Byte) : decode q = .op (.b2n b) ↔
    opField q = 0b10#2 ∧ operandField q = b := by
  obtain hop | hop | hop | hop := opField_cases q <;>
    simp [decode_of_op_00, decode_of_op_01, decode_of_op_10, decode_of_op_11, hop, ite_eq_iff]

/-- The words of N2B. -/
theorem decode_eq_n2b_iff (q : Request) (h l : Nibble) : decode q = .op (.n2b h l) ↔
    opField q = 0b11#2 ∧ q.extractLsb' 4 4 = h ∧ q.extractLsb' 0 4 = l := by
  obtain hop | hop | hop | hop := opField_cases q <;>
    simp [decode_of_op_00, decode_of_op_01, decode_of_op_10, decode_of_op_11, hop, ite_eq_iff]

/-- The one rejection is MALFORMED, of the malformed words (30_encoding.md R38). -/
theorem decode_eq_malformed_iff (q : Request) : decode q = .malformed ↔ malformed q = true := by
  rw [malformed_iff]
  obtain hop | hop | hop | hop := opField_cases q <;>
    simp [decode_of_op_00, decode_of_op_01, decode_of_op_10, decode_of_op_11, hop]

/-! ## Decoder and encoder -/

/-- What the decoder reads is what the encoder would write: a word is its fields side by side, the reserved ones 0. -/
theorem encode_of_decode {q : Request} {i : Instr} (h : decode q = .op i) : encode i = q := by
  rw [← opField_append_operandField q]
  cases i with
  | encn n =>
    obtain ⟨hop, hres, rfl⟩ := (decode_eq_encn_iff q n).1 h
    rw [hop, ← operandField_eq_nibbles, hres, encode]
    exact BitVec.append_assoc
  | decb r =>
    obtain ⟨hop, hres, rfl⟩ := (decode_eq_decb_iff q r).1 h
    rw [hop, ← operandField_eq_bit_block, hres, encode]
    exact BitVec.append_assoc
  | b2n b =>
    obtain ⟨hop, rfl⟩ := (decode_eq_b2n_iff q b).1 h
    rw [hop, encode]
  | n2b hi lo =>
    obtain ⟨hop, rfl, rfl⟩ := (decode_eq_n2b_iff q hi lo).1 h
    rw [hop, ← operandField_eq_nibbles, encode]
    exact BitVec.append_assoc

/-- A word decodes to an instruction exactly when it is the encoding of it (30_encoding.md R35, R36). -/
theorem decode_eq_op_iff {q : Request} {i : Instr} : decode q = .op i ↔ encode i = q := by
  refine ⟨encode_of_decode, ?_⟩
  rintro rfl
  cases i with
  | encn n => exact (decode_eq_encn_iff _ n).2 (encode_encn_fields n)
  | decb r => exact (decode_eq_decb_iff _ r).2 (encode_decb_fields r)
  | b2n b => exact (decode_eq_b2n_iff _ b).2 (encode_b2n_fields b)
  | n2b h l => exact (decode_eq_n2b_iff _ h l).2 (encode_n2b_fields h l)

/-- Settles O1: the fields read are the fields written. -/
theorem encodeThenDecodeGivesTheInstruction : Obligations.EncodeThenDecodeGivesTheInstruction :=
  fun _ => decode_eq_op_iff.2 rfl

@[simp] theorem decode_encode (i : Instr) : decode (encode i) = .op i := encodeThenDecodeGivesTheInstruction i

/-- Settles O2: the decoder's answer decides which of the two a word is; encodings decode to their instruction. -/
theorem everyWordIsOneInstructionOrMalformed : Obligations.EveryWordIsOneInstructionOrMalformed := by
  intro q
  cases hq : decode q with
  | op i =>
    have hwell : malformed q = false := by
      rw [← Bool.not_eq_true, ← decode_eq_malformed_iff, hq]
      exact Decoded.noConfusion
    refine .inl ⟨hwell, i, rfl, encode_of_decode hq, ?_⟩
    rintro j rfl
    simpa using hq
  | malformed =>
    refine .inr ⟨(decode_eq_malformed_iff q).1 hq, rfl, ?_⟩
    rintro j rfl
    simp at hq

end Sys2Proof.Machine
end

section
/-! The 1024 words in order of their number, and how many each operation has (30_encoding.md R39). -/

namespace Sys2Proof.Machine

theorem opField_eq_iff (q : Request) (op : BitVec 2) : opField q = op ↔ q.toNat / 256 = op.toNat := by
  rw [← BitVec.toNat_inj, opField, BitVec.extractLsb'_toNat, Nat.shiftRight_eq_div_pow]
  omega

/-- The reserved bits of op 00 are 0. -/
theorem highNibble_eq_zero_iff (q : Request) : q.extractLsb' 4 4 = 0#4 ↔ q.toNat / 16 % 16 = 0 := by
  simp [← BitVec.toNat_inj, Nat.shiftRight_eq_div_pow]

/-- The reserved bit of op 01 is 0. -/
theorem bitSeven_eq_zero_iff (q : Request) : q.extractLsb' 7 1 = 0#1 ↔ q.toNat / 128 % 2 = 0 := by
  simp [← BitVec.toNat_inj, Nat.shiftRight_eq_div_pow]

/-- The words in order: six intervals, four of an operation and two of malformed words. -/
theorem decode_by_toNat (q : Request) :
    (q.toNat < 16 ∧ ∃ n, decode q = .op (.encn n)) ∨
    (16 ≤ q.toNat ∧ q.toNat < 256 ∧ decode q = .malformed ∧ opField q = 0b00#2) ∨
    (256 ≤ q.toNat ∧ q.toNat < 384 ∧ ∃ r, decode q = .op (.decb r)) ∨
    (384 ≤ q.toNat ∧ q.toNat < 512 ∧ decode q = .malformed ∧ opField q = 0b01#2) ∨
    (512 ≤ q.toNat ∧ q.toNat < 768 ∧ ∃ b, decode q = .op (.b2n b)) ∨
    (768 ≤ q.toNat ∧ ∃ h l, decode q = .op (.n2b h l)) := by
  obtain hop | hop | hop | hop := opField_cases q
  · have hnum : q.toNat / 256 = 0 := (opField_eq_iff q _).1 hop
    rw [decode_of_op_00 hop]
    split_ifs with hres <;> rw [highNibble_eq_zero_iff] at hres
    · exact .inl ⟨by omega, _, rfl⟩
    · exact .inr (.inl ⟨by omega, by omega, rfl, hop⟩)
  · have hnum : q.toNat / 256 = 1 := (opField_eq_iff q _).1 hop
    rw [decode_of_op_01 hop]
    split_ifs with hres <;> rw [bitSeven_eq_zero_iff] at hres
    · exact .inr (.inr (.inl ⟨by omega, by omega, _, rfl⟩))
    · exact .inr (.inr (.inr (.inl ⟨by omega, by omega, rfl, hop⟩)))
  · have hnum : q.toNat / 256 = 2 := (opField_eq_iff q _).1 hop
    exact .inr (.inr (.inr (.inr (.inl ⟨by omega, by omega, _, decode_of_op_10 hop⟩))))
  · have hnum : q.toNat / 256 = 3 := (opField_eq_iff q _).1 hop
    exact .inr (.inr (.inr (.inr (.inr ⟨by omega, _, _, decode_of_op_11 hop⟩))))

/-- As many numbers below N lie in an interval as it is long. -/
theorem countP_range_interval {a n N : Nat} (hle : a + n ≤ N) :
    (List.range N).countP (fun k => a ≤ k ∧ k < a + n) = n := by
  calc (List.range N).countP (fun k => a ≤ k ∧ k < a + n)
      = ((Finset.range N).filter fun k => a ≤ k ∧ k < a + n).card := Nat.count_eq_card_filter_range _ N
    _ = (Finset.Ico a (a + n)).card := by
        congr 1
        ext k
        simp
        omega
    _ = n := by simp

/-- A kind of word that is an interval of numbers has as many words as the interval is long. -/
theorem countP_words_interval {p : Request → Bool} (a n : Nat) (hle : a + n ≤ 1024)
    (hp : ∀ q, p q = true ↔ a ≤ q.toNat ∧ q.toNat < a + n) :
    ((List.range 1024).map (BitVec.ofNat 10)).countP p = n := by
  rw [List.countP_map, ← countP_range_interval hle]
  refine List.countP_congr fun k hk => ?_
  simp [hp, Nat.mod_eq_of_lt (List.mem_range.1 hk)]

/-- Settles O3: the words of each kind are an interval, as long as the count says. -/
theorem wordCountsPerOperation : Obligations.WordCountsPerOperation := by
  refine ⟨countP_words_interval 0 16 (by decide) ?_, countP_words_interval 256 128 (by decide) ?_,
    countP_words_interval 512 256 (by decide) ?_, countP_words_interval 768 256 (by decide) ?_,
    countP_words_interval 16 240 (by decide) ?_, countP_words_interval 384 128 (by decide) ?_⟩ <;>
  · intro q
    have hlt := q.isLt
    obtain ⟨hr, n, h⟩ | ⟨hr, hr', h, hop⟩ | ⟨hr, hr', r, h⟩ | ⟨hr, hr', h, hop⟩ | ⟨hr, hr', b, h⟩ | ⟨hr, hi, lo, h⟩ :=
      decode_by_toNat q <;> simp [*] <;> omega

/-- Settles O5: each word is decoded. -/
theorem sampleWordsDecodeAsWritten : Obligations.SampleWordsDecodeAsWritten := by
  unfold Obligations.SampleWordsDecodeAsWritten
  decide

end Sys2Proof.Machine
end

section
/-! The two interfaces of the core (30_encoding.md R34, R37, R38): the answer to each kind of word, a presented table
word, the datapath, and the macros (R42). -/

namespace Sys2Proof.Machine

/-! ## The response to each operation's word -/

@[simp] theorem respond_encode_encn (t : Config.CodeTables) (n : Nibble) :
    respond t (encode (.encn n)) = encnResponse (encUnit t.G n) := by
  obtain ⟨hop, -, hn⟩ := encode_encn_fields n
  simp [respond, (Laws.WellFormedWord.encn n).2, hop, hn]

@[simp] theorem respond_encode_decb (t : Config.CodeTables) (r : Codeword) :
    respond t (encode (.decb r)) = decbResponse (decUnit t.H r) := by
  obtain ⟨hop, -, hr⟩ := encode_decb_fields r
  simp [respond, (Laws.WellFormedWord.decb r).2, hop, hr]

@[simp] theorem respond_encode_b2n (t : Config.CodeTables) (b : Byte) :
    respond t (encode (.b2n b)) = b2nResponse (splitHigh b) (splitLow b) := by
  obtain ⟨hop, hb⟩ := encode_b2n_fields b
  simp [respond, (Laws.WellFormedWord.b2n b).2, hop, hb]

@[simp] theorem respond_encode_n2b (t : Config.CodeTables) (h l : Nibble) :
    respond t (encode (.n2b h l)) = n2bResponse (joinNibbles h l) := by
  obtain ⟨hop, hh, hl⟩ := encode_n2b_fields h l
  simp [respond, (Laws.WellFormedWord.n2b h l).2, hop, hh, hl]

/-- A malformed word is answered by status MALFORMED and nothing else (60_exceptions.md R60). -/
theorem respond_of_malformed (t : Config.CodeTables) {q : Request} (hm : malformed q = true) :
    respond t q = 0x4000#15 := by
  rw [respond, if_pos hm]
  rfl

theorem bitSeven_ne_zero_iff (q : Request) : q.extractLsb' 7 1 ≠ 0#1 ↔ q[7] = true := by
  rw [BitVec.getElem_eq_extractLsb']
  obtain h | h := BitVec.eq_zero_or_eq_one (q.extractLsb' 7 1) <;> simp [h]

/-- Settles O6: the reserved bits by `malformed_iff`, the answer by `respond` of a malformed word. -/
theorem reservedBitsGiveMalformed : Obligations.ReservedBitsGiveMalformed := by
  refine ⟨fun q => ?_, fun s q rest hin hm => ?_⟩
  · exact (malformed_iff q).trans (by rw [bitSeven_ne_zero_iff]; rfl)
  · rw [step_request hin, respond_of_malformed s.tables hm]
    rfl

/-! ## A presented table word -/

/-- The instruction read from a table word is the one its request encodes (log 10). -/
theorem requestOfTableWord_of_decode {nbits w : Nat} {i : Instr} (h : decodeTableWord nbits w = some i) :
    requestOfTableWord nbits w = some (encode i) := by
  unfold decodeTableWord at h
  split at h
  · cases h
  next q hq =>
    split at h
    next j hj =>
      cases h
      rw [hq, encode_of_decode hj]
    · cases h

/-- The host's next action is to present that encoding. -/
theorem withFetchWord_of_decode (s : State) {nbits w : Nat} {i : Instr} (h : decodeTableWord nbits w = some i) :
    s.withFetchWord nbits w = { s with inputs := .request (encode i) :: s.inputs } := by
  rw [State.withFetchWord, presentTableWord, requestOfTableWord_of_decode h]

/-- With the encoding of an instruction on the port, that instruction drives the response `respond` gives. -/
theorem exec_of_req_encode {s : State} {i : Instr} (h : s.req = encode i) :
    exec i s = .next (s.driveResponse (respond s.tables s.req)) := by
  rw [← answerRequest_eq_respond, answerRequest, h, decode_encode]

/-- Settles O17: the step presents the encoding of the instruction, and the instruction drives the response observed. -/
theorem presentedTableWordRuns : Obligations.PresentedTableWordRuns := by
  intro s nbits w i h
  refine ⟨_, exec_of_req_encode rfl, ?_⟩
  rw [withFetchWord_of_decode s h, step_request rfl]
  rfl

/-! ## The datapath -/

/-- Settles O9: the outputs are the units' functions of the levels driven, and no other field is written. -/
theorem driveMovesOnlyTheDatapath : Obligations.DriveMovesOnlyTheDatapath := by
  intro s p rest hin
  rw [step, hin]
  rfl

/-- Settles O40: each output names its own unit's inputs and matrix only. -/
theorem datapathOutputsFollowTheirOwnUnit : Obligations.DatapathOutputsFollowTheirOwnUnit := by
  intro t t' p p'
  refine ⟨fun hG hd => ?_, fun hH hr => ?_, fun hb => ?_, fun hhi hlo => ?_⟩
  · simp [datapath, hG, hd]
  · simp [datapath, hH, hr]
  · simp [datapath, hb]
  · simp [datapath, hhi, hlo]

/-- A word laid above three others is laid above each in turn. -/
theorem append_append_assoc {j k m n : Nat} (z : BitVec j) (a : BitVec k) (b : BitVec m) (c : BitVec n) :
    (z ++ (a ++ b ++ c)) = (z ++ a ++ b ++ c).cast (by omega)  := by
  rw [← BitVec.toNat_inj]
  simp [BitVec.toNat_append, Nat.shiftLeft_or_distrib, ← Nat.shiftLeft_add, Nat.or_assoc, add_comm]

/-- Settles O41: either interface lays the unit's outputs out in the same order. -/
theorem requestsAgreeWithTheDatapath : Obligations.RequestsAgreeWithTheDatapath := by
  intro t p
  simp only [respond_encode_encn, respond_encode_decb, respond_encode_b2n, respond_encode_n2b, datapath]
  refine ⟨?_, ?_, ?_, ?_⟩
  · exact (BitVec.append_assoc (x₁ := 0#1) (x₂ := 0#7) (x₃ := encUnit t.G p.encD)).symm
  · exact append_append_assoc 0#1 _ _ _
  · exact append_append_assoc 0#1 0#6 _ _
  · exact (BitVec.append_assoc (x₁ := 0#1) (x₂ := 0#6) (x₃ := joinNibbles p.pjHi p.pjLo)).symm

/-! ## The macros -/

/-- Settles O44: `respond` of each request in turn, and each field read back from the response that holds it. -/
theorem macrosExpandToTheirRequests : Obligations.MacrosExpandToTheirRequests := by
  intro t b r1 r2
  refine ⟨?_, ?_⟩
  · simp [encByte, splitHigh, splitLow]
  · simp [decByte, joinNibbles]

end Sys2Proof.Machine
end

section
/-! The host's side of the encoding: which operands the assembler takes, and the text line (30_encoding.md R40, R41). -/

namespace Sys2Proof.Machine

/-! ## The assembler -/

/-- Settles O43: the check refuses each operand beyond its field; one that fits is the value of the field it is cut to,
and the word is the encoding of the operation with it. What is left to close are the bounds. -/
theorem assemblerRefusesWhatDoesNotFit : Obligations.AssemblerRefusesWhatDoesNotFit := by
  refine ⟨
    fun n => ⟨fun h => if_neg ?_,
      fun h => ⟨_, if_pos ?_, BitVec.ofNat 4 n, Nat.mod_eq_of_lt ?_, decode_encode _⟩⟩,
    fun r => ⟨fun h => if_neg ?_,
      fun h => ⟨_, if_pos ?_, BitVec.ofNat 7 r, Nat.mod_eq_of_lt ?_, decode_encode _⟩⟩,
    fun b => ⟨fun h => if_neg ?_,
      fun h => ⟨_, if_pos ?_, BitVec.ofNat 8 b, Nat.mod_eq_of_lt ?_, decode_encode _⟩⟩,
    fun hi lo => ⟨fun h => if_neg ?_,
      fun hh hl => ⟨_, if_pos ?_, BitVec.ofNat 4 hi, BitVec.ofNat 4 lo, Nat.mod_eq_of_lt ?_, Nat.mod_eq_of_lt ?_,
        decode_encode _⟩⟩,
    fun w => ⟨fun h => if_neg ?_, fun h => ⟨_, if_pos ?_, Nat.mod_eq_of_lt ?_⟩⟩⟩ <;>
  simp [AsmLine.wellFormed] <;> omega

/-! ## The text line -/

/-- The other direction of `codewordOfSeq_codewordSeq`: a sequence of seven bits survives its bus (00_scope.md R11). -/
theorem codewordSeq_codewordOfSeq (v : Vector Bit 7) : codewordSeq (codewordOfSeq v) = v := by
  obtain ⟨⟨l⟩, hl⟩ := v
  match l, hl with
  | [a, b, c, d, e, f, g], _ => revert a b c d e f g; decide

/-- Only '0' and '1' stand for a bit (93_implementation_defined.md I11). -/
@[simp] theorem charBit_eq_some_iff (c : Char) (b : Bit) : charBit c = some b ↔ c = bitChar b := by
  unfold charBit bitChar
  split_ifs <;> cases b <;> simp_all

/-- A list of characters reads as some bits exactly when it is those bits written out. -/
theorem mapM_charBit_eq_some_iff (line : List Char) (bits : List Bit) :
    line.mapM charBit = some bits ↔ line = bits.map bitChar := by
  induction line generalizing bits with
  | nil => cases bits <;> simp
  | cons c cs ih =>
    cases bits with
    | nil => simp [Option.bind_eq_some_iff]
    | cons b bs => simp [Option.bind_eq_some_iff, ih]

/-- A line reads as two codewords exactly when it is the line written for them. -/
theorem parseTextLine_eq_some_iff (line : List Char) (hi lo : Codeword) :
    parseTextLine line = some (hi, lo) ↔ line = textLine hi lo := by
  constructor
  · intro h
    unfold parseTextLine at h
    split at h
    next hbits =>
      rw [mapM_charBit_eq_some_iff] at hbits
      cases h
      simp [hbits, textLine, codewordSeq_codewordOfSeq]
    · cases h
  · rintro rfl
    have hbits : (textLine hi lo).mapM charBit = some ((codewordSeq hi).toList ++ (codewordSeq lo).toList) := by
      rw [mapM_charBit_eq_some_iff, List.map_append, textLine]
    rw [parseTextLine, hbits]
    exact congrArg some (Prod.ext (codewordOfSeq_codewordSeq hi) (codewordOfSeq_codewordSeq lo))

/-- Element i of a codeword's sequence is its bit 6-i. -/
theorem codewordSeq_getElem (cw : Codeword) (i : Nat) (h : i < 7) : (codewordSeq cw)[i] = cw.getLsbD (6 - i) := by
  interval_cases i <;> rfl

/-- Character i is bit 13-i of the two codewords, high first. -/
theorem textLine_getElem? (hi lo : Codeword) {i : Nat} (h : i < 14) :
    (textLine hi lo)[i]? = some (bitChar ((hi ++ lo).getLsbD (13 - i))) := by
  rw [textLine, List.getElem?_append, BitVec.getLsbD_append]
  by_cases hhi : i < 7
  · have hlo : ¬ 13 - i < 7 := by omega
    simp [hhi, hlo, codewordSeq_getElem, show 13 - i - 7 = 6 - i by omega]
  · have hlo : 13 - i < 7 := by omega
    simp [hhi, hlo, codewordSeq_getElem, show i - 7 < 7 by omega, show 6 - (i - 7) = 13 - i by omega]

/-- Settles O45: the characters by `textLine_getElem?`, the reading by `parseTextLine_eq_some_iff`. -/
theorem textLineReadsBack : Obligations.TextLineReadsBack := by
  refine ⟨fun hi lo k hk hk' => ⟨?_, ?_⟩, fun hi lo i hi14 => ?_, fun hi lo => ⟨?_, ?_⟩, fun line hi lo h => ?_⟩
  · rw [textLine_getElem? hi lo (by omega), BitVec.getLsbD_append, if_neg (by omega)]
    rw [show 13 - (k - 1) - 7 = 7 - k by omega, bitChar]
  · rw [textLine_getElem? hi lo (by omega), BitVec.getLsbD_append, if_pos (by omega)]
    rw [show 13 - (7 + k - 1) = 7 - k by omega, bitChar]
  · exact textLine_getElem? hi lo hi14
  · simp [textLine]
  · exact (parseTextLine_eq_some_iff _ hi lo).2 rfl
  · exact (parseTextLine_eq_some_iff line hi lo).1 h

end Sys2Proof.Machine
end

section
/-! The encoder (40_encoder.md): the generator product bit by bit, what it is with the hardwired G, its linearity over
GF(2), and the code it generates. -/

namespace Sys2Proof.Machine

/-! ## The product, whatever the matrix (40_encoder.md R43) -/

/-- A row's product with a data nibble: the parity of the row ANDed with d1 to d4. -/
theorem gf2Dot_nibbleSeq (row : Vector Bit 4) (n : Nibble) : gf2Dot row (nibbleSeq n) =
    xor (xor (row[0] && n[3]) (row[1] && n[2])) (xor (row[2] && n[1]) (row[3] && n[0])) := by
  obtain ⟨⟨l⟩, hl⟩ := row
  match l, hl with
  | [a, b, c, d], _ => simp [gf2Dot, nibbleSeq]

/-- Codeword position p, counted from 0 here, is the product with row p. -/
theorem encUnit_getLsbD (G : BitMatrix 7 4) (n : Nibble) (p : Fin 7) :
    (encUnit G n).getLsbD (6 - p.val) = gf2Dot G[p] (nibbleSeq n) := by
  rw [← codewordSeq_getElem _ _ p.isLt]
  simp [encUnit, codewordSeq_codewordOfSeq]

/-- An ENCN response is the codeword under eight zeros (30_encoding.md R37). -/
theorem encnResponse_eq (cw : Codeword) : encnResponse cw = 0#8 ++ cw :=
  (BitVec.append_assoc (x₁ := 0#1) (x₂ := 0#7) (x₃ := cw)).symm

/-- ENCN drives that response, and nothing else. -/
theorem exec_encn (n : Nibble) (s : State) :
    exec (.encn n) s = .next { s with rsp := 0#8 ++ encUnit s.tables.G n } := by
  rw [← encnResponse_eq]
  rfl

/-- Settles O25: each position is the product with its row, on either interface, and `decode_eq_encn_iff` names the
words. -/
theorem encnIsTheGeneratorProduct : Obligations.EncnIsTheGeneratorProduct := by
  have hproduct (G : BitMatrix 7 4) (n : Nibble) (p : Fin 7) := (encUnit_getLsbD G n p).trans (gf2Dot_nibbleSeq G[p] n)
  exact ⟨fun s n => ⟨_, exec_encn n s, hproduct s.tables.G n⟩, fun t p => hproduct t.G p.encD, decode_eq_encn_iff⟩

/-! ## With the hardwired G (40_encoder.md R44, R45) -/

/-- With the hardwired G, a word that is the codeword under eight zeros is what ENCN drives. -/
theorem exec_encn_of_hardwired {s : State} {n : Nibble} {w : Response} (hs : s.Hardwired)
    (hw : 0#8 ++ encUnit generatorG n = w) : exec (.encn n) s = .next { s with rsp := w } := by
  rw [exec_encn, hs, ← hw]
  rfl

/-- The per-bit equations of 40_encoder.md R44, each the product with its row of G. -/
theorem encUnit_generatorG (n : Nibble) : encUnit generatorG n =
    BitVec.ofBool (xor (xor n[3] n[2]) n[0]) ++ BitVec.ofBool (xor (xor n[3] n[1]) n[0]) ++
      BitVec.ofBool n[3] ++ BitVec.ofBool (xor (xor n[2] n[1]) n[0]) ++
      BitVec.ofBool n[2] ++ BitVec.ofBool n[1] ++ BitVec.ofBool n[0] := by
  simp [encUnit, codewordOfSeq, generatorG, gf2Dot_nibbleSeq]

/-- Settles O26: `encUnit_generatorG` under the zeros. -/
theorem encnFollowsThePerBitEquations : Obligations.EncnFollowsThePerBitEquations :=
  fun _ n hs => exec_encn_of_hardwired hs (congrArg (0#8 ++ ·) (encUnit_generatorG n))

/-- Settles O27: the codeword of each of the 16 nibbles is its entry. -/
theorem encnIsTheEncodeTable : Obligations.EncnIsTheEncodeTable := by
  intro s n hs
  refine exec_encn_of_hardwired hs ?_
  revert n
  decide

/-! ## Linearity (40_encoder.md R46) -/

/-- A row's product is linear in the vector. -/
theorem parity_zipWith_and_xor (row u v : List Bit) (hlen : u.length = v.length) :
    parity (List.zipWith and row (List.zipWith xor u v)) =
      xor (parity (List.zipWith and row u)) (parity (List.zipWith and row v)) := by
  induction row generalizing u v with
  | nil => simp
  | cons r row ih =>
    match u, v, hlen with
    | [], [], _ => simp
    | a :: u, b :: v, hlen =>
      simp only [List.zipWith_cons_cons, parity_cons, ih u v (by simpa using hlen), Bool.and_xor_distrib_left,
        Bool.xor_assoc, Bool.xor_left_comm]

/-- The GF(2) product is linear in the vector, whatever the matrix (00_scope.md R14). -/
theorem gf2Mul_xor {r c : Nat} (M : BitMatrix r c) (u v : Vector Bit c) :
    gf2Mul M (u.zipWith xor v) = (gf2Mul M u).zipWith xor (gf2Mul M v) := by
  ext i hi
  simp [gf2Dot, Vector.toList_zipWith, parity_zipWith_and_xor]

theorem nibbleSeq_xor (a b : Nibble) : nibbleSeq (a ^^^ b) = (nibbleSeq a).zipWith xor (nibbleSeq b) := by
  simp [nibbleSeq]

theorem codewordSeq_xor (a b : Codeword) : codewordSeq (a ^^^ b) = (codewordSeq a).zipWith xor (codewordSeq b) := by
  simp [codewordSeq, pos]

theorem codewordOfSeq_xor (u v : Vector Bit 7) :
    codewordOfSeq (u.zipWith xor v) = codewordOfSeq u ^^^ codewordOfSeq v := by
  rw [← codewordOfSeq_codewordSeq (codewordOfSeq u ^^^ codewordOfSeq v), codewordSeq_xor]
  simp only [codewordSeq_codewordOfSeq]

/-- The encoder is linear, whatever the matrix. -/
theorem encUnit_xor (G : BitMatrix 7 4) (a b : Nibble) : encUnit G (a ^^^ b) = encUnit G a ^^^ encUnit G b := by
  rw [encUnit, nibbleSeq_xor, gf2Mul_xor, codewordOfSeq_xor, encUnit, encUnit]

/-! ## The code (40_encoder.md R46) -/

/-- The data read back: positions 3, 5, 6 and 7 carry it. -/
@[simp] theorem extractData_encUnit (n : Nibble) : extractData (encUnit generatorG n) = n := by
  obtain ⟨h3, h5, h6, h7⟩ := encUnit_data_positions n
  simp only [extractData, h3, h5, h6, h7]
  exact nibbleOfSeq_nibbleSeq n

theorem syndrome_encUnit (n : Nibble) : syndrome parityCheckH (encUnit generatorG n) = 0#3 := by
  revert n
  decide

theorem three_le_weight_encUnit {n : Nibble} (hn : n ≠ 0#4) : 3 ≤ weight (encUnit generatorG n) := by
  revert n
  decide

/-- Two codewords are as far apart as the codeword of the data's difference is heavy. -/
theorem three_le_weight_encUnit_xor {a b : Nibble} (hab : a ≠ b) :
    3 ≤ weight (encUnit generatorG a ^^^ encUnit generatorG b) := by
  rw [← encUnit_xor]
  exact three_le_weight_encUnit (mt BitVec.xor_eq_zero_iff.1 hab)

theorem weight_le_seven (cw : Codeword) : weight cw ≤ 7 := by
  simpa [weight] using (codewordSeq cw).toList.countP_le_length (p := id)

/-- The weight distribution of the 16 codewords. -/
theorem countP_weight_encUnit (w : Nat) :
    ((List.range 16).countP fun n => weight (encUnit generatorG (BitVec.ofNat 4 n)) = w) =
      if w = 0 then 1 else if w = 3 then 7 else if w = 4 then 7 else if w = 7 then 1 else 0 := by
  by_cases hw : w ≤ 7
  · interval_cases w <;> decide
  · have hnone (cw : Codeword) : weight cw ≠ w := by
      have := weight_le_seven cw
      omega
    simp [hnone, show w ≠ 0 ∧ w ≠ 3 ∧ w ≠ 4 ∧ w ≠ 7 by omega]

/-- Settles O28: injective because the data is read back, distance 3 by linearity and the weights. -/
theorem encoderImageProperties : Obligations.EncoderImageProperties :=
  ⟨syndrome_encUnit, Function.LeftInverse.injective extractData_encUnit, extractData_encUnit,
    fun _ _ => three_le_weight_encUnit_xor, ⟨0#4, 2#4, by decide⟩, countP_weight_encUnit, encUnit_xor generatorG⟩

end Sys2Proof.Machine
end

section
/-! The decoder (41_decoder.md): the syndrome bit by bit and its linearity over GF(2), the flip table, the unit in terms
of both, and what it makes of a codeword with errors. -/

namespace Sys2Proof.Machine

/-! ## The syndrome, whatever the matrix (41_decoder.md R47, R48) -/

/-- A row's product as the parity over its columns. -/
theorem gf2Dot_eq_parity_finRange {c : Nat} (row v : Vector Bit c) :
    gf2Dot row v = parity ((List.finRange c).map fun j => row[j] && v[j]) := by
  refine congrArg parity (List.ext_getElem (by simp) fun i _ _ => ?_)
  simp

/-- Component k stands at bit k of the bus (00_scope.md R12). -/
theorem syndromeOfSeq_getLsbD (v : Vector Bit 3) (k : Fin 3) : (syndromeOfSeq v).getLsbD k.val = v[k] := by
  rw [syndromeOfSeq, BitVec.getLsbD_append, BitVec.getLsbD_append]
  fin_cases k <;> simp

/-- Syndrome component k is the product of row k with the received positions 1 to 7. -/
theorem syndrome_getLsbD (H : BitMatrix 3 7) (r : Codeword) (k : Fin 3) : (syndrome H r).getLsbD k.val =
    parity ((List.finRange 7).map fun (j : Fin 7) => H[k][j] && r.getLsbD (6 - j.val)) := by
  have hseq (j : Fin 7) : (codewordSeq r)[j] = r.getLsbD (6 - j.val) := codewordSeq_getElem r j.val j.isLt
  rw [syndrome, syndromeOfSeq_getLsbD]
  simp [gf2Dot_eq_parity_finRange, ← hseq]

theorem syndromeOfSeq_xor (u v : Vector Bit 3) :
    syndromeOfSeq (u.zipWith xor v) = syndromeOfSeq u ^^^ syndromeOfSeq v := by
  refine BitVec.eq_of_getLsbD_eq fun i hi => ?_
  have hbit (w : Vector Bit 3) : (syndromeOfSeq w).getLsbD i = w[i] := syndromeOfSeq_getLsbD w ⟨i, hi⟩
  simp [hbit]

/-- The syndrome is linear, whatever the matrix. -/
theorem syndrome_xor (H : BitMatrix 3 7) (a b : Codeword) :
    syndrome H (a ^^^ b) = syndrome H a ^^^ syndrome H b := by
  rw [syndrome, codewordSeq_xor, gf2Mul_xor, syndromeOfSeq_xor, syndrome, syndrome]

/-! ## The syndrome with the hardwired H (41_decoder.md R48) -/

/-- The bus equations, each the product with its row of H. -/
theorem syndrome_parityCheckH (r : Codeword) : syndrome parityCheckH r =
    BitVec.ofBool (xor (xor r[3] r[2]) (xor r[1] r[0])) ++ BitVec.ofBool (xor (xor r[5] r[4]) (xor r[1] r[0])) ++
      BitVec.ofBool (xor (xor r[6] r[4]) (xor r[2] r[0])) := by
  simp [syndrome, syndromeOfSeq, parityCheckH, gf2Dot, codewordSeq, pos]

/-- A codeword does not change the syndrome of what is added to it. -/
theorem syndrome_encUnit_xor (n : Nibble) (x : Codeword) :
    syndrome parityCheckH (encUnit generatorG n ^^^ x) = syndrome parityCheckH x := by
  rw [syndrome_xor, syndrome_encUnit, BitVec.zero_xor]

/-- Settles O31: the rows of H written out, linearity of the GF(2) product, and H · G = 0. -/
theorem syndromeEquationsAndLinearity : Obligations.SyndromeEquationsAndLinearity :=
  ⟨syndrome_parityCheckH, syndrome_xor, syndrome_encUnit_xor⟩

/-! ## The flip table (41_decoder.md R49) -/

/-- Entry e has its one 1 at bus bit 7-e, entry 0 has none. -/
theorem flipMask_eq (e : Syndrome) : flipMask e = if e = 0#3 then 0#7 else 1#7 <<< (7 - e.toNat) := by
  revert e
  decide

/-- Settles O32: the entries are read off, and `flipMask_eq` is the formula. -/
theorem flipMaskIsTheLookupTable : Obligations.FlipMaskIsTheLookupTable := ⟨by decide, flipMask_eq⟩

/-- A flip is one position at most. -/
theorem weight_flipMask_le_one (e : Syndrome) : weight (flipMask e) ≤ 1 := by
  revert e
  decide

/-- The syndrome of a flip names the position flipped: column p of H is the number p. -/
theorem syndrome_flipMask (e : Syndrome) : syndrome parityCheckH (flipMask e) = e := by
  revert e
  decide

/-! ## The unit and the operation (41_decoder.md R47 to R50) -/

theorem decUnit_errorPosition (H : BitMatrix 3 7) (r : Codeword) : (decUnit H r).errorPosition = syndrome H r := rfl

theorem decUnit_correctedBlock (H : BitMatrix 3 7) (r : Codeword) :
    (decUnit H r).correctedBlock = r ^^^ flipMask (decUnit H r).errorPosition := rfl

theorem decUnit_dataBits (H : BitMatrix 3 7) (r : Codeword) :
    (decUnit H r).dataBits = extractData (decUnit H r).correctedBlock := rfl

/-- Positions 3, 5, 6 and 7 by their bus bits. -/
theorem extractData_eq (cb : Codeword) : extractData cb =
    BitVec.ofBool cb[4] ++ BitVec.ofBool cb[2] ++ BitVec.ofBool cb[1] ++ BitVec.ofBool cb[0] := rfl

/-- DECB drives the unit's three outputs under status OK, and nothing else. -/
theorem exec_decb (r : Codeword) (s : State) :
    exec (.decb r) s = .next { s with rsp := decbResponse (decUnit s.tables.H r) } := rfl

/-- With the hardwired H, the three outputs of the unit are what DECB drives. -/
theorem exec_decb_of_hardwired {s : State} {r cb : Codeword} {e : Syndrome} {d : Nibble} (hs : s.Hardwired)
    (hdec : decUnit parityCheckH r = ⟨cb, e, d⟩) :
    exec (.decb r) s = .next { s with rsp := 0#1 ++ (cb ++ e ++ d) } := by
  have hout : decUnit s.tables.H r = ⟨cb, e, d⟩ := by rw [hs]; exact hdec
  rw [exec_decb, hout]
  rfl

/-- Settles O29: the outputs of the unit, on either interface, one by one; `decode_eq_decb_iff` names the words. -/
theorem decbIsTheParityCheckProduct : Obligations.DecbIsTheParityCheckProduct := by
  have hflip (H : BitMatrix 3 7) (r : Codeword) := (decUnit_correctedBlock H r).trans
    (congrArg (r ^^^ ·) (flipMask_eq (decUnit H r).errorPosition))
  have hdata (H : BitMatrix 3 7) (r : Codeword) := (decUnit_dataBits H r).trans (extractData_eq _)
  refine ⟨fun s r => ⟨_, _, _, exec_decb r s, syndrome_getLsbD s.tables.H r, hflip s.tables.H r, hdata s.tables.H r⟩,
    fun t p => ⟨syndrome_getLsbD t.H p.decR, hflip t.H p.decR, hdata t.H p.decR⟩, fun q r => ?_⟩
  have hbit : q.extractLsb' 7 1 = 0#1 ↔ q[7] = false := by
    rw [← Bool.not_eq_true, ← bitSeven_ne_zero_iff, not_not]
  rw [decode_eq_decb_iff, hbit, opField]

/-- Settles O30: the unit's outputs by `syndrome_parityCheckH`, `flipMask_eq` and `extractData_eq`. -/
theorem decbFollowsTheBusEquations : Obligations.DecbFollowsTheBusEquations := by
  intro s r hs e cb d
  have he : syndrome parityCheckH r = e := syndrome_parityCheckH r
  have hcb : r ^^^ flipMask e = cb := congrArg (r ^^^ ·) (flipMask_eq e)
  exact exec_decb_of_hardwired hs (by rw [decUnit, he, hcb, extractData_eq])

/-- Settles O36: the fields read back from the response are the unit's outputs, and `flipMask_eq` is what was flipped. -/
theorem correctionIsANormalOutcome : Obligations.CorrectionIsANormalOutcome := by
  intro s r
  refine ⟨_, exec_decb r s, statusOf_okResponse _, ?_⟩
  rw [rspErrorPosition_decbResponse, rspCorrectedBlock_decbResponse, decUnit_correctedBlock, flipMask_eq]
  refine ⟨fun h0 => ?_, fun hne => ?_, fun h7 => ?_⟩
  · rw [if_pos h0, BitVec.xor_zero]
  · rw [if_neg hne]
  · rw [h7]
    rfl

/-! ## The perfect code (41_decoder.md R51) -/

/-- A codeword with at most one flip is decoded to the codeword, the flip and the nibble: the syndrome is that of the flip
alone, and flipping again undoes it. -/
theorem decUnit_encUnit_xor_flipMask (n : Nibble) (e : Syndrome) :
    decUnit parityCheckH (encUnit generatorG n ^^^ flipMask e) = ⟨encUnit generatorG n, e, n⟩ := by
  simp [decUnit, syndrome_encUnit_xor, syndrome_flipMask]

/-- The blocks of syndrome 0 are the codewords, each that of its own data bits. -/
theorem encUnit_extractData {c : Codeword} (h : syndrome parityCheckH c = 0#3) :
    encUnit generatorG (extractData c) = c := by
  revert c
  decide

/-- The corrected block is always the codeword of the data bits: the flip takes the syndrome to 0. -/
theorem decUnit_correctedBlock_eq_encUnit (r : Codeword) :
    (decUnit parityCheckH r).correctedBlock = encUnit generatorG (decUnit parityCheckH r).dataBits := by
  have hsyn : syndrome parityCheckH (decUnit parityCheckH r).correctedBlock = 0#3 := by
    rw [decUnit_correctedBlock, syndrome_xor, syndrome_flipMask, decUnit_errorPosition, BitVec.xor_self]
  rw [decUnit_dataBits, encUnit_extractData hsyn]

/-- A received block is the codeword of the data bits with the reported position flipped. -/
theorem encUnit_dataBits_xor_flipMask (r : Codeword) :
    encUnit generatorG (decUnit parityCheckH r).dataBits ^^^ flipMask (decUnit parityCheckH r).errorPosition = r := by
  rw [← decUnit_correctedBlock_eq_encUnit, decUnit_correctedBlock, BitVec.xor_assoc, BitVec.xor_self, BitVec.xor_zero]

/-- Settles O33: `decUnit_encUnit_xor_flipMask`, with the flip by its formula. -/
theorem decbCorrectsEverySingleError : Obligations.DecbCorrectsEverySingleError := by
  intro s n e hs
  rw [← flipMask_eq]
  exact exec_decb_of_hardwired hs (decUnit_encUnit_xor_flipMask n e)

/-- Settles O34: the decoder's nibble and position are one way, and it reads any other way back as itself. -/
theorem everyBlockIsOneCodewordWithOneFlip : Obligations.EveryBlockIsOneCodewordWithOneFlip := by
  intro r
  refine ⟨_, _, (encUnit_dataBits_xor_flipMask r).symm, ?_⟩
  rintro n e rfl
  have hdec : decUnit parityCheckH (encUnit codeTables.G n ^^^ flipMask e) = ⟨encUnit codeTables.G n, e, n⟩ :=
    decUnit_encUnit_xor_flipMask n e
  rw [hdec]
  exact ⟨rfl, rfl⟩

/-- Settles O35: the decoder's codeword is one flip from what was received, and were it the one sent, the errors would be
that one flip. -/
theorem multipleErrorsAreMiscorrectedSilently : Obligations.MultipleErrorsAreMiscorrectedSilently := by
  intro s n x hs hx
  set r := encUnit codeTables.G n ^^^ x with hr
  set m := (decUnit parityCheckH r).dataBits
  set e := (decUnit parityCheckH r).errorPosition
  have hnear : encUnit codeTables.G m ^^^ flipMask e = r := encUnit_dataBits_xor_flipMask r
  have hdec : decUnit parityCheckH r = ⟨encUnit codeTables.G m, e, m⟩ := by
    rw [← hnear]
    exact decUnit_encUnit_xor_flipMask m e
  refine ⟨m, e, ?_, exec_decb_of_hardwired hs hdec, ?_⟩
  · intro hmn
    have hflip : x = flipMask e := by
      rw [hr, hmn] at hnear
      exact ((BitVec.xor_right_inj _).1 hnear).symm
    have := weight_flipMask_le_one e
    rw [← hflip] at this
    omega
  · rw [← hnear, ← BitVec.xor_assoc, BitVec.xor_self, BitVec.zero_xor]
    exact weight_flipMask_le_one e

end Sys2Proof.Machine
end

section
/-! The packer (42_packer.md): split and join are inverse to each other, what B2N and N2B drive, and the byte codec end to
end (30_encoding.md R42). -/

namespace Sys2Proof.Machine

/-! ## Split and join (42_packer.md R53 to R55) -/

@[simp] theorem joinNibbles_split (b : Byte) : joinNibbles (splitHigh b) (splitLow b) = b :=
  (BitVec.extractLsb'_append_extractLsb'_eq_extractLsb' rfl).trans BitVec.extractLsb'_eq_self

@[simp] theorem splitHigh_joinNibbles (h l : Nibble) : splitHigh (joinNibbles h l) = h :=
  BitVec.extractLsb'_append_eq_left

@[simp] theorem splitLow_joinNibbles (h l : Nibble) : splitLow (joinNibbles h l) = l :=
  BitVec.extractLsb'_append_eq_right

/-- The high nibble is b1 to b4, the first four bits of the byte's sequence. -/
theorem splitHigh_eq_bits (b : Byte) : splitHigh b =
    BitVec.ofBool b[7] ++ BitVec.ofBool b[6] ++ BitVec.ofBool b[5] ++ BitVec.ofBool b[4] := by
  rw [← nibbleOfSeq_nibbleSeq (splitHigh b)]
  simp [nibbleOfSeq, nibbleSeq, splitHigh]

/-- The low nibble is b5 to b8, the last four. -/
theorem splitLow_eq_bits (b : Byte) : splitLow b =
    BitVec.ofBool b[3] ++ BitVec.ofBool b[2] ++ BitVec.ofBool b[1] ++ BitVec.ofBool b[0] := by
  rw [← nibbleOfSeq_nibbleSeq (splitLow b)]
  simp [nibbleOfSeq, nibbleSeq, splitLow]

theorem toNat_joinNibbles (h l : Nibble) : (joinNibbles h l).toNat = 16 * h.toNat + l.toNat := by
  rw [joinNibbles, BitVec.toNat_append, ← Nat.shiftLeft_add_eq_or_of_lt l.isLt, Nat.shiftLeft_eq, mul_comm]

/-! ## The two responses (30_encoding.md R37) -/

/-- A B2N response is its nibbles under seven zeros. -/
theorem b2nResponse_eq (hi lo : Nibble) : b2nResponse hi lo = 0#7 ++ hi ++ lo :=
  append_append_assoc 0#1 0#6 hi lo

/-- An N2B response is its byte zero-extended. -/
theorem n2bResponse_eq_setWidth (b : Byte) : n2bResponse b = b.setWidth 15 := by
  rw [BitVec.setWidth_eq_append (by decide)]
  exact (BitVec.append_assoc (x₁ := 0#1) (x₂ := 0#6) (x₃ := b)).symm

/-- B2N of a byte and N2B of its halves are answered by the same word; only the names of the fields differ. -/
theorem b2nResponse_split (b : Byte) : b2nResponse (splitHigh b) (splitLow b) = n2bResponse b := by
  have happ : b2nResponse (splitHigh b) (splitLow b) = n2bResponse (joinNibbles (splitHigh b) (splitLow b)) :=
    congrArg okResponse (BitVec.append_assoc (x₁ := 0#6))
  rw [happ, joinNibbles_split]

theorem toNat_n2bResponse (b : Byte) : (n2bResponse b).toNat = b.toNat := by
  rw [n2bResponse_eq_setWidth, BitVec.toNat_setWidth_of_le (by decide)]

/-! ## The operations -/

/-- B2N drives the two halves under status OK, and nothing else. -/
theorem exec_b2n (b : Byte) (s : State) :
    exec (.b2n b) s = .next { s with rsp := b2nResponse (splitHigh b) (splitLow b) } := rfl

/-- N2B drives the joined byte under status OK, and nothing else. -/
theorem exec_n2b (h l : Nibble) (s : State) :
    exec (.n2b h l) s = .next { s with rsp := n2bResponse (joinNibbles h l) } := rfl

/-- Settles O37: the halves by their bits, under zeros that leave the byte, and `decode_eq_b2n_iff` names the words. -/
theorem b2nSplitsTheByte : Obligations.B2nSplitsTheByte := by
  refine ⟨fun s b => ⟨_, _, splitHigh_eq_bits b, splitLow_eq_bits b, ?_, ?_⟩, fun t p => ⟨rfl, rfl⟩, decode_eq_b2n_iff⟩
  · rw [exec_b2n, b2nResponse_eq]
  · rw [← b2nResponse_eq, b2nResponse_split, n2bResponse_eq_setWidth]

/-- The operand field of an N2B word is the byte it joins to. -/
theorem operandField_encode_n2b (h l : Nibble) : operandField (encode (.n2b h l)) = joinNibbles h l := by
  obtain ⟨-, hh, hl⟩ := encode_n2b_fields h l
  rw [← operandField_eq_nibbles, hh, hl, joinNibbles]

/-- Settles O38: the response is the joined byte, whose number is `toNat_joinNibbles`, and `decode_eq_n2b_iff` names the
words. -/
theorem n2bJoinsTheNibbles : Obligations.N2bJoinsTheNibbles := by
  refine ⟨fun s h l => ⟨_, exec_n2b h l s, ?_⟩, fun t p => toNat_joinNibbles p.pjHi p.pjLo, decode_eq_n2b_iff⟩
  rw [toNat_n2bResponse, operandField_encode_n2b]
  have hnum := toNat_joinNibbles h l
  refine ⟨hnum, ?_, n2bResponse_eq_setWidth _, ?_⟩
  · omega
  · rintro rfl
    omega

/-! ## The byte codec end to end (42_packer.md R55) -/

/-- A block of weight at most 1 is an entry of the flip table. -/
theorem exists_flipMask_of_weight_le_one {x : Codeword} (hx : weight x ≤ 1) : ∃ e, x = flipMask e := by
  revert x
  decide

/-- A codeword spoilt in at most one position is decoded to its nibble. -/
theorem decUnit_dataBits_of_weight_le_one (n : Nibble) {x : Codeword} (hx : weight x ≤ 1) :
    (decUnit codeTables.H (encUnit codeTables.G n ^^^ x)).dataBits = n := by
  obtain ⟨e, rfl⟩ := exists_flipMask_of_weight_le_one hx
  exact congrArg DecodedBlock.dataBits (decUnit_encUnit_xor_flipMask n e)

/-- Settles O39: each field read back from its response leaves the units, and these are inverse to each other: join and
split, and the decoder to the encoder for either nibble with at most one error. -/
theorem packerLawsAndEndToEndByteCodec : Obligations.PackerLawsAndEndToEndByteCodec := by
  refine ⟨fun t b => ?_, fun t h l => ?_, fun b x1 x2 hx1 hx2 => ?_⟩
  · simp
  · simp
  · simp [decUnit_dataBits_of_weight_le_one _ hx1, decUnit_dataBits_of_weight_le_one _ hx2]

end Sys2Proof.Machine
end

section
/-! One answer and at most one condition for each request (60_exceptions.md R60, R61): what the presented word's step is,
the status of every response, and what a malformed request leaves for the next. -/

namespace Sys2Proof.Machine

/-! ## The status of a response -/

/-- The status is bit 14 (60_exceptions.md R60). -/
theorem statusOf_eq_malformed_iff (r : Response) : statusOf r = .malformed ↔ r.getLsbD 14 = true := by
  rw [statusOf, ← BitVec.getLsbD_eq_getElem]
  cases r.getLsbD 14 <;> simp

/-- A request that encodes an instruction is answered with status OK and a result in `rsp[13:0]`. -/
theorem respond_encode_eq_okResponse (t : Config.CodeTables) (i : Instr) :
    ∃ w, respond t (encode i) = okResponse w := by
  cases i with
  | encn n => exact ⟨_, respond_encode_encn t n⟩
  | decb r => exact ⟨_, respond_encode_decb t r⟩
  | b2n b => exact ⟨_, respond_encode_b2n t b⟩
  | n2b h l => exact ⟨_, respond_encode_n2b t h l⟩

theorem statusOf_respond_encode (t : Config.CodeTables) (i : Instr) : statusOf (respond t (encode i)) = .ok := by
  obtain ⟨w, hw⟩ := respond_encode_eq_okResponse t i
  rw [hw, statusOf_okResponse]

/-- Status MALFORMED is of the malformed requests alone: every other word encodes an instruction. -/
theorem statusOf_respond_eq_malformed_iff (t : Config.CodeTables) (q : Request) :
    statusOf (respond t q) = .malformed ↔ malformed q = true := by
  obtain ⟨hwell, i, -, rfl, -⟩ | ⟨hm, -, -⟩ := everyWordIsOneInstructionOrMalformed q
  · simp [statusOf_respond_encode, hwell]
  · rw [respond, if_pos hm]
    simp [hm]

/-- Settles O42: the reserved bits decide the status before any operand is read. -/
theorem atMostOneConditionPerRequest : Obligations.AtMostOneConditionPerRequest :=
  ⟨fun t _ hm => respond_of_malformed t hm, statusOf_respond_eq_malformed_iff,
    fun t r => statusOf_respond_encode t (.decb r)⟩

/-! ## The step that presents a request -/

/-- Settles O8: `step_request` is the answer with its frame, and bit 14 of the response is its status. -/
theorem stepAnswersByRespond : Obligations.StepAnswersByRespond := by
  refine ⟨fun s q rest hin => step_request hin, fun t q => ⟨?_, fun hm => ?_⟩⟩
  · rw [Bool.eq_iff_iff, ← statusOf_eq_malformed_iff, statusOf_respond_eq_malformed_iff]
  · rw [respond_of_malformed t hm]
    rfl

/-- Settles O7: the word presented is the encoding of the instruction it decodes to, so that instruction drives the
response observed. -/
theorem stepRunsTheDecodedInstruction : Obligations.StepRunsTheDecodedInstruction := by
  intro s q rest i hin hq
  exact ⟨_, exec_of_req_encode (encode_of_decode hq).symm, step_request hin⟩

/-- Settles O16: the step that presents a request reads only the matrices of the state, and no such step writes them;
of what the first one wrote, all but the host's observed pair is written over by the second. That the first request is
malformed is not needed: no request leaves anything behind (20_memory.md R29). -/
theorem malformedLeavesNothingBehind : Obligations.MalformedLeavesNothingBehind := by
  intro s m q rest _ hin
  have hfirst := step_request hin
  have hsecond := step_request
    (s := ((s.present m (.request q :: rest)).driveResponse (respond s.tables m)).observe) (q := q) (rest := rest) rfl
  have hrun := (run_succ_eq_next_iff core 1 s _).2 ⟨_, hfirst, (run_succ_eq_next_iff core 0 _ _).2 ⟨_, hsecond, rfl⟩⟩
  have halone := step_request (s := { s with inputs := .request q :: rest }) rfl
  exact ⟨_, _, hrun, halone, rfl, rfl, rfl, rfl, rfl, rfl⟩

end Sys2Proof.Machine
end

section
/-! A run over any actions of the host goes on, and observes the pairs of its requests alone (70_reset_and_hazards.md R66,
R69, R71). -/

namespace Sys2Proof.Machine

/-! ## One step: it goes on, and observes at most the pair of its action -/

/-- Settles O10: the step with no action left is the identity. -/
theorem nothingPresentedChangesNothing : Obligations.NothingPresentedChangesNothing := by
  intro s hin
  simp [step, hin]

/-- The pair the host observes for one of its actions: a request has one, a drive of the datapath has none. -/
def Input.pair? (t : Config.CodeTables) : Input → Option (Request × Response)
  | .request q => some (q, respond t q)
  | .drive _ => none

@[simp] theorem Input.pair?_request (t : Config.CodeTables) (q : Request) :
    (Input.request q).pair? t = some (q, respond t q) := rfl

@[simp] theorem Input.pair?_drive (t : Config.CodeTables) (p : DatapathIn) : (Input.drive p).pair? t = none := rfl

/-- A step takes the host's next action, keeps the matrices, and adds to the observed pairs that action's pair alone. -/
theorem step_action {s : State} {action : Input} {rest : List Input} (hin : s.inputs = action :: rest) :
    ∃ u, step s = .next u ∧ u.inputs = rest ∧ u.tables = s.tables ∧
      u.observed = s.observed ++ (action.pair? s.tables).toList := by
  cases action with
  | request q => exact ⟨_, step_request hin, by simp⟩
  | drive p => exact ⟨_, driveMovesOnlyTheDatapath s p rest hin, by simp⟩

/-- Every step goes on, whatever the host's next action. -/
theorem exists_step_eq_next (s : State) : ∃ t, step s = .next t := by
  cases hin : s.inputs with
  | nil => exact ⟨s, nothingPresentedChangesNothing s hin⟩
  | cons action rest =>
    obtain ⟨u, hstep, -⟩ := step_action hin
    exact ⟨u, hstep⟩

/-! ## Runs: they go on, and keep the invariant -/

/-- Settles O11, by induction on the length: the first step goes on, and so does the run after it. -/
theorem noRunStops : Obligations.NoRunStops := by
  intro k
  induction k with
  | zero => exact fun s => ⟨s, rfl⟩
  | succ k ih =>
    intro s
    obtain ⟨u, hstep⟩ := exists_step_eq_next s
    obtain ⟨t, hrun⟩ := ih u
    exact ⟨t, (run_succ_eq_next_iff core k s t).2 ⟨u, hstep, hrun⟩⟩

/-- Settles O20: reset sets each output to the function of its inputs, and nothing is observed yet. -/
theorem resetMeetsTheInvariant : Obligations.ResetMeetsTheInvariant :=
  ⟨rfl, ⟨rfl, rfl⟩, List.forall_mem_nil _⟩

/-- Settles O19: the run goes on, and keeps the invariant since every step does. -/
theorem everyRunIsSafe : Obligations.EveryRunIsSafe := by
  intro k s hinv
  obtain ⟨t, hrun⟩ := noRunStops k s
  exact ⟨t, hrun, run_keeps (everyStepKeepsTheInvariant _ _) hinv hrun⟩

/-! ## What a run observes -/

/-- Settles O12: the run over requests observes their pairs, and its matrices stay the hardwired ones. -/
theorem runObservesEachRequestWithItsResponse : Obligations.RunObservesEachRequestWithItsResponse := by
  intro s qs hhard hin
  obtain ⟨t, hrun, hend, hobs⟩ := run_requests hin
  rw [hhard] at hobs
  exact ⟨t, hrun, hobs, hend, (tablesNeverChange _ s t hrun).trans hhard⟩

/-- A run over any actions goes on to its end and observes the pairs of its requests, in order. -/
theorem run_actions {s : State} {actions : List Input} (hin : s.inputs = actions) :
    ∃ t, core.run actions.length s = .next t ∧ t.inputs = [] ∧
      t.observed = s.observed ++ actions.filterMap (Input.pair? s.tables) := by
  induction actions generalizing s with
  | nil => exact ⟨s, rfl, hin, by simp⟩
  | cons action rest ih =>
    obtain ⟨u, hstep, hrest, htables, hpair⟩ := step_action hin
    obtain ⟨t, hrun, hend, hobs⟩ := ih hrest
    refine ⟨t, (run_succ_eq_next_iff core rest.length s t).2 ⟨u, hstep, hrun⟩, hend, ?_⟩
    rw [hobs, hpair, htables, List.append_assoc]
    cases action <;> simp [List.filterMap_cons]

/-- Settles O13: a drive adds no pair and leaves the matrices alone, so every response is `respond codeTables` of its
request. -/
theorem drivesBetweenRequestsChangeNoResponse : Obligations.DrivesBetweenRequestsChangeNoResponse := by
  intro s hhard
  obtain ⟨t, hrun, hend, hobs⟩ := run_actions (s := s) rfl
  rw [hhard] at hobs
  refine ⟨t, hrun, hend, hobs.trans (congrArg (s.observed ++ ·) (List.filterMap_congr fun action _ => ?_))⟩
  cases action <;> rfl

end Sys2Proof.Machine
end
